-- ==== Sys2Proof/Word.lean ====
section
/-!
DEFINITION. The byte, the unit of every frame and of the image (spec 11, R178 and R179).
-/
namespace Sys2Proof

/-- One byte of a frame, of the status header or of the image. -/
abbrev Byte := BitVec 8

end Sys2Proof
end

