-- ==== Sys2Proof/Syntax.lean ====
section
/-!
DEFINITION. The commands of the part: one constructor for each row of spec/opcode_table.json.
A grant of a port request names the port; the request itself stands in the port's slots (R8, R10).
-/
namespace Sys2Proof

/-- The four agent ports (00_scope, 0.6). -/
inductive Port where
  | p0 | p1 | p2 | p3
  deriving DecidableEq, Repr

/-- The events of the part that the outside sends it, one at a time. -/
inductive Instr where
  /-- Grant of an ATTACH request of port p (R121). -/
  | attach (p : Port)
  /-- Grant of a DETACH request of port p (R122). -/
  | detach (p : Port)
  /-- Grant of a DEFINE request of port p (R16). -/
  | define (p : Port)
  /-- Grant of an AMEND request of port p (R18). -/
  | amend (p : Port)
  /-- Grant of a RETIRE request of port p (R19). -/
  | retire (p : Port)
  /-- Grant of a RENEW request of port p (R21). -/
  | renew (p : Port)
  /-- Grant of a DESCRIBE request of port p (R22). -/
  | describe (p : Port)
  /-- Grant of a LIST request of port p (R23). -/
  | list (p : Port)
  /-- Grant of a CLEAR request of port p (R52). -/
  | clear (p : Port)
  /-- Grant of an OVERRIDE request of port p (R54). -/
  | override (p : Port)
  /-- Grant of a REPORT request of port p (R69). -/
  | report (p : Port)
  /-- Grant of a WATCH request of port p (R85). -/
  | watch (p : Port)
  /-- Grant of an UNWATCH request of port p (R86). -/
  | unwatch (p : Port)
  /-- Grant of a FETCH request of port p (R98). -/
  | fetch (p : Port)
  /-- Grant of an ACK request of port p (R99). -/
  | ack (p : Port)
  /-- Grant of a CLAIM request of port p (R107). -/
  | claim (p : Port)
  /-- Grant of a RELEASE request of port p (R109). -/
  | release (p : Port)
  /-- Grant of a SAVE request of port p (R141). -/
  | save (p : Port)
  /-- Grant of a SETTINGS request of port p (R144). -/
  | settings (p : Port)
  /-- Grant of a well-formed frame of port p whose request code is unknown (R13). -/
  | unknownRequestCode (p : Port)
  /-- Grant of the capture job (R145). -/
  | captureJob
  /-- Grant of the accrual job (R78). -/
  | accrualJob
  /-- Expiry of the second timer, with the level of RUN at that moment (R76, R77). -/
  | secondTick (run : Bool)
  /-- The lease unit prescaler completes 3277 periods (R105). -/
  | leaseUnitComplete
  /-- The remaining lease time reaches 0 (R111). -/
  | leaseExpiry
  /-- Expiry of the autosave timer (R143). -/
  | autosaveExpiry
  /-- PFW_N asserts (R154). -/
  | pfwAssert
  /-- PFW_N deasserts (R156). -/
  | pfwDeassert
  /-- PRST_N of port p asserts (R133). -/
  | portReset (p : Port)
  /-- PRST_N of port p deasserts (R133). -/
  | prstDeassert (p : Port)
  /-- Power-on or assertion of RESET_N (R169). -/
  | deviceReset
  /-- RESET_N deasserts (R169). -/
  | resetDeassert
  /-- End of a WRITE transaction on port p, with the bytes received after the select byte (R123, R124). -/
  | frameArrival (p : Port) (bytes : List Byte)
  /-- The READ select byte is taken on port p (R128). -/
  | readSelect (p : Port)
  /-- End of a READ transaction on port p, with the number of bytes clocked out after the select byte (R129). -/
  | readEnd (p : Port) (clocked : Nat)
  /-- End of a transaction on port p whose select byte was neither WRITE nor READ (R118). -/
  | invalidSelectEnd (p : Port)
  /-- Completion of a flash status read, with the status byte (R162, R166). -/
  | statusRead (status : Byte)
  /-- Completion of the write enable transaction (R163, R164). -/
  | writeEnable
  /-- Completion of the sector erase transaction (R163). -/
  | sectorEraseTransaction
  /-- Completion of the page program transaction (R164). -/
  | pageProgramTransaction
  /-- Completion of a page read transaction, with the 256 bytes taken from MDI (R165). -/
  | pageRead (data : List Byte)
  /-- The timeout timer expires during the ready wait (R162). -/
  | readyWaitTimeout
  /-- The timeout timer reaches its limit during the busy wait (R166). -/
  | busyWaitTimeout
  deriving DecidableEq, Repr

end Sys2Proof
end

