-- ==== Sys2Proof/Decode.lean ====
section
/-!
DEFINITION. The command a word spells by the bits of spec/opcode_table.json: no row of the table gives bits
(every "fields" is empty and no row has "fixed"), so no word spells a command.
The request frames that controllers send are decoded in Machine/Operands.lean.
-/
namespace Sys2Proof

/-- No row of the table has bits: every word is refused. -/
def decodeTableWord (_nbits _w : Nat) : Option Instr := none

end Sys2Proof
end

