-- ==== Sys2Proof/Config.lean ====
section
/-!
DEFINITION. What the part fixes (identity, limits, periods) and the model's free values.
-/
namespace Sys2Proof.Config

/-- The largest value of a 48-bit saturating total (R7). -/
def max48 : Nat := 281474976710655
/-- The largest value of a 32-bit field (R3, R139). -/
def max32 : Nat := 4294967295
/-- 2^32, the modulus of the check word and of the generation comparison (R145, R172). -/
def two32 : Nat := 4294967296

/-- R1: at most 64 entries. -/
def tableSize : Nat := 64
/-- R41: 256 epoch records. -/
def poolSize : Nat := 256
/-- R84: at most 32 ids on a watch list. -/
def watchSize : Nat := 32
/-- R91: at most 16 notices in a queue. -/
def queueSize : Nat := 16
/-- R98: a FETCH returns up to six notices. -/
def fetchSize : Nat := 6
/-- R23: a LIST returns up to 16 entries. -/
def listSize : Nat := 16
/-- R70: a tag history holds up to eight tags. -/
def tagSize : Nat := 8
/-- R123: a request frame holds at most 64 bytes. -/
def frameSize : Nat := 64

/-- The part identity (R178). -/
def partIdentity : Nat := 0x0464
/-- The image format version the part writes and accepts (R178, R187). -/
def formatVersion : Nat := 1
/-- The marker of an image header (R187). -/
def marker : Nat := 0x43555A56
/-- The body length of an image (R145, R187). -/
def bodyLength : Nat := 8192
/-- R138: the autosave interval after a device reset and after a blank start. -/
def defaultInterval : Nat := 10

/-- REFCLK periods in a second (R76, R143). -/
def secondPeriods : Nat := 32768
/-- REFCLK periods in a lease unit (R105). -/
def leaseUnitPeriods : Nat := 3277
/-- The limit of the ready wait and of the busy wait of an erase (R162, R163). -/
def longLimit : Nat := 13108
/-- The limit of the busy wait of a page program (R164). -/
def programLimit : Nat := 99

/-- FREE VALUE (log entry 8): the level of RUN at a second tick that the model's own REFCLK brings about.
RUN is an input, and nothing of the spec fixes its level at such a moment. -/
opaque runLevel : Nat → Bool
/-- FREE VALUE (log entry 7): which of several timers at their end has its event taken next.
The spec gives the outcome for either order and fixes no order (00_scope, Events). -/
opaque raceOrder : Nat → Nat
/-- FREE VALUE (log entry 24): what SDO carries while the select byte of a transaction is coming in: SDO drives (R117), and
the spec gives no value for these eight bits. -/
opaque sdoWhileSelecting : Nat → Byte
/-- FREE VALUE (log entry 26): the level of MDO in the n-th MCK period in which a flash transaction takes a bit from MDI: the
part sends nothing then, and the spec gives no level. -/
opaque mdoWhileTaking : Nat → Nat → Bool
/-- FREE VALUES (log entry 23): what the 32-bit counts of an epoch record hold after an addition whose exact sum they cannot
hold; from the record's number and the exact sums of errors and exposure. R34 shows that no window of the part's own
making comes there, and the spec gives no result. -/
opaque overflowedErrors : (free record errors exposure : Nat) → Nat
opaque overflowedExposure : (free record errors exposure : Nat) → Nat

end Sys2Proof.Config
end

