-- ==== Sys2Proof/Machine/Bytes.lean ====
section
/-!
DEFINITION. Byte order, the CRC-8, the 32-bit word sum, and the bytes of a bit-serial link (R117, R178, R181).
-/
namespace Sys2Proof.Machine

/-- One byte holding n (its low eight bits). -/
def byteOf (n : Nat) : Byte := BitVec.ofNat 8 n

/-- R178: n as w bytes, least significant first. -/
def leBytes : (w n : Nat) → List Byte
  | 0, _ => []
  | w + 1, n => byteOf n :: leBytes w (n / 256)

/-- R178: the number that bytes spell, least significant first. -/
def leNat : List Byte → Nat
  | [] => 0
  | b :: bs => b.toNat + 256 * leNat bs

/-- R178: a flag as a byte. -/
def flagByte (b : Bool) : Byte := if b then 1 else 0

/-- A field of a record: w bytes at an offset, as a number. -/
def fieldAt (rec : List Byte) (offset w : Nat) : Nat := leNat ((rec.drop offset).take w)

/-- n bytes of 0x00. -/
def zeros (n : Nat) : List Byte := List.replicate n 0

/-- A list filled with 0x00 up to n bytes, or cut there. -/
def padTo (n : Nat) (bs : List Byte) : List Byte := (bs ++ zeros n).take n

/-- R181: one of the eight shifts of the CRC register. -/
def crcShift (r : Byte) : Byte := if r.msb then (r <<< 1) ^^^ 0x07 else r <<< 1

/-- R181: the CRC register after one more byte. -/
def crcByte (r b : Byte) : Byte :=
  crcShift (crcShift (crcShift (crcShift (crcShift (crcShift (crcShift (crcShift (r ^^^ b))))))))

/-- R181: the CRC-8 of the bytes. -/
def crc8 (bs : List Byte) : Byte := bs.foldl crcByte 0

/-- Bytes followed by their CRC-8 (R179). -/
def withCrc (bs : List Byte) : List Byte := bs ++ [crc8 bs]

/-- R173: the sum of the 32-bit little-endian words of a list of bytes, not yet reduced. -/
def wordSum : List Byte → Nat
  | b0 :: b1 :: b2 :: b3 :: bs => leNat [b0, b1, b2, b3] + wordSum bs
  | _ => 0

/-- R117: the byte whose bits came in this order, most significant first. -/
def byteOfBits (bits : List Bool) : Byte := byteOf (bits.foldl (fun n b => 2 * n + b.toNat) 0)

/-- R117: the whole bytes of a train of bits, most significant bit first; bits after the last whole byte are ignored. -/
def bytesOfBits : List Bool → List Byte
  | b7 :: b6 :: b5 :: b4 :: b3 :: b2 :: b1 :: b0 :: bits =>
    byteOfBits [b7, b6, b5, b4, b3, b2, b1, b0] :: bytesOfBits bits
  | _ => []

/-- R117: the bits of a byte as the link shifts them, most significant first. -/
def bitsOfByte (b : Byte) : List Bool :=
  [b.getLsbD 7, b.getLsbD 6, b.getLsbD 5, b.getLsbD 4, b.getLsbD 3, b.getLsbD 2, b.getLsbD 1, b.getLsbD 0]

/-- R117, R159: the bits sampled on the rising edges of a clock, from the levels of clock and data at successive moments; the first
argument is the level of the clock before them. -/
def risingSamples : (before : Bool) → List (Bool × Bool) → List Bool
  | _, [] => []
  | before, (clock, data) :: rest =>
    if !before && clock then data :: risingSamples clock rest else risingSamples clock rest

/-- R117: the number of falling edges of a clock, from its levels at successive moments. -/
def fallingEdges : (before : Bool) → List Bool → Nat
  | _, [] => 0
  | before, clock :: rest => (before && !clock).toNat + fallingEdges clock rest

end Sys2Proof.Machine
end

