-- ==== Sys2Proof/Machine/State.lean ====
section
/-!
DEFINITION. The state of the part, block by block (00_scope, 0.2), as plain data, and its value right after a device reset.
-/
namespace Sys2Proof.Machine

/-- One value for each port. -/
structure PerPort (α : Type) where
  p0 : α
  p1 : α
  p2 : α
  p3 : α
  deriving DecidableEq, Repr

/-! ### The indicator table (chapters 1 to 4) -/

/-- R3, R178: TALLY, RUNTIME, RATIO. -/
inductive Kind where
  | tally | runtime | ratio
  deriving DecidableEq, Repr

/-- R3: the class of an entry. -/
inductive IndicatorClass where
  | urgent | planned
  deriving DecidableEq, Repr

/-- R3: the gate of a RUNTIME entry. -/
inductive Gate where
  | run | powered
  deriving DecidableEq, Repr

/-- R45: the verdicts, computed and published. -/
inductive Verdict where
  | settling | good | tripped | held
  deriving DecidableEq, Repr

/-- R54: the override of an entry. -/
inductive Override where
  | none | forceGood | forceTrip
  deriving DecidableEq, Repr

/-- R3, R4: the definition fields of a RATIO entry. -/
structure RatioDef where
  nominal : Nat
  minExposure : Nat
  epochSize : Nat
  depth : Nat
  deriving DecidableEq, Repr

/-- R7, R30: the state fields that a RATIO entry alone has. Epoch records are named by their numbers in the pool:
`closed` oldest first, `opened` the open epoch, `spares` in the order in which they will be opened. -/
structure RatioState where
  lifetime : Nat
  settled : Bool
  closed : List Nat
  opened : Nat
  spares : List Nat
  deriving DecidableEq, Repr

/-- R4: the kind of an entry with the fields that belong to it. -/
inductive KindData where
  | tally (budget : Nat)
  | runtime (gate : Gate) (budget : Nat)
  | ratio (defn : RatioDef) (state : RatioState)
  deriving DecidableEq, Repr

/-- R3, R7: an indicator entry. The published verdict is derived from `computed` and `override` (R53). -/
structure Entry where
  id : Nat
  data : KindData
  cls : IndicatorClass
  writers : PerPort Bool
  trip : Nat
  hyst : Nat
  label : List Byte
  rawTotal : Nat
  saturated : Bool
  score : Nat
  worst : Nat
  computed : Verdict
  override : Override
  tags : List Nat
  deriving DecidableEq, Repr

/-- R30: an epoch record. -/
structure EpochRecord where
  errors : Nat
  exposure : Nat
  deriving DecidableEq, Repr

/-! ### The notice unit (chapter 5) -/

/-- R88: the reason of a LEASE_ENDED notice. -/
inductive LeaseEndReason where
  | released | expired | portReset
  deriving DecidableEq, Repr

/-- R89: the system events. -/
inductive SystemEvent where
  | snapshotFailed
  | leaseEnded (former : Port) (reason : LeaseEndReason)
  | frozenEntered
  | frozenLeft
  deriving DecidableEq, Repr

/-- R88: the fields of a notice that depend on its kind. -/
inductive NoticeBody where
  | verdict (id : Nat) (fromVerdict toVerdict : Verdict) (score count : Nat)
  | retired (id score count : Nat)
  | system (event : SystemEvent)
  deriving DecidableEq, Repr

/-- R88: a notice. -/
structure Notice where
  seq : Nat
  body : NoticeBody
  delivered : Bool
  deriving DecidableEq, Repr

/-- What the notice unit holds for one port (R84, R90, R91, R96). The watch list is kept in ascending order. -/
structure NoticeUnit where
  watch : List Nat
  queue : List Notice
  lost : Bool
  seq : Nat
  deriving DecidableEq, Repr

/-! ### Agent ports (chapter 7) -/

/-- The four slots of a port, named as in the worked example 7.9. -/
inductive SlotNo where
  | a | b | c | d
  deriving DecidableEq, Repr

/-- R123: a well-formed request frame without its length and CRC. -/
structure Request where
  tag : Byte
  code : Byte
  body : List Byte
  deriving DecidableEq, Repr

/-- R137: the result codes. -/
inductive ResultCode where
  | ok | notReady | notAttached | badRequest
  | noSuchIndicator | exists_ | tableFull | poolShort | outOfRange | fixedField | notWriter | notReportable
  | notHolder | heldElsewhere | frozen | watchFull | badSequence | conditionPresent | snapshotFailed
  deriving DecidableEq, Repr

/-- R126: an answer without its length and CRC. -/
structure Answer where
  tag : Byte
  code : Byte
  result : ResultCode
  body : List Byte
  deriving DecidableEq, Repr

/-- R125: the five states of a slot. -/
inductive Slot where
  | free
  | queued (r : Request)
  | inService (r : Request)
  | waiting (r : Request)
  | answered (a : Answer)
  deriving DecidableEq, Repr

/-- The four slots of a port. -/
structure Slots where
  a : Slot
  b : Slot
  c : Slot
  d : Slot
  deriving DecidableEq, Repr

/-- R128: what a READ transaction in progress has fixed. -/
structure ReadTransaction where
  header : List Byte
  answer : Option (SlotNo × Answer)
  deriving DecidableEq, Repr

/-- R119: the state of a port, with the notice unit's part for it. -/
structure PortState where
  attached : Bool
  slots : Slots
  arrival : List SlotNo
  answers : List SlotNo
  overrun : Nat
  badFrame : Nat
  reading : Option ReadTransaction
  notices : NoticeUnit
  deriving DecidableEq, Repr

/-! ### Lease unit (chapter 6) -/

/-- The lease unit's state (R104, R105); the prescaler is none while stopped. A full unit counted, 3277 periods, stands in
it until the event of that unit is taken (log entry 5). -/
structure Lease where
  holder : Option Port
  duration : Nat
  remaining : Nat
  prescaler : Option Nat
  deriving DecidableEq, Repr

/-! ### Runtime accrual (chapter 4) -/

/-- R76, R77, R8: the accrual block. A full second, 32,768 periods, stands in the timer until its tick is taken
(log entry 5). -/
structure Accrual where
  candidate : Bool
  secondTimer : Nat
  owedRun : Nat
  owedPowered : Nat
  pendRun : Nat
  pendPowered : Nat
  deriving DecidableEq, Repr

/-! ### Snapshot unit (chapter 8) -/

/-- The device phase (chapters 8 and 10). -/
inductive DevicePhase where
  | starting | running | frozen
  deriving DecidableEq, Repr

/-- The snapshot phase. -/
inductive SnapPhase where
  | idle | capturePending | writing | verifying
  deriving DecidableEq, Repr

/-- The attempt of the snapshot in flight, 1 or 2. -/
inductive Attempt where
  | first | second
  deriving DecidableEq, Repr

/-- The two banks of the flash. -/
inductive Bank where
  | a | b
  deriving DecidableEq, Repr

/-- R141: the snapshot a waiting SAVE is bound to. -/
inductive Binding where
  | current | next
  deriving DecidableEq, Repr

/-- R142: a waiting SAVE. -/
structure WaitingSave where
  port : Port
  slot : SlotNo
  binding : Binding
  deriving DecidableEq, Repr

/-- R187: an image, 256 header bytes and 8192 body bytes when complete. -/
structure Image where
  header : List Byte
  body : List Byte
  deriving DecidableEq, Repr

/-- The snapshot unit's state (chapter 8, opening table). `again` is the pending flag; the autosave timer is
none while stopped and otherwise holds its remaining REFCLK periods, 0 from its expiry until the expiry is taken
(log entry 5). -/
structure Snapshot where
  phase : SnapPhase
  changeCount : Nat
  captured : Nat
  attempt : Attempt
  again : Bool
  waiting : List WaitingSave
  buffer : Option Image
  target : Bank
  newestBank : Option Bank
  newestGen : Nat
  interval : Nat
  autosave : Option Nat
  deriving DecidableEq, Repr

/-! ### Memory link (chapter 9) -/

/-- R160: the link phase. -/
inductive LinkPhase where
  | idle | readyWait | command | busyWait
  deriving DecidableEq, Repr

/-- R161: the operations. -/
inductive FlashOp where
  | erase (sector : Nat)
  | program (page : Nat)
  | read (page : Nat)
  deriving DecidableEq, Repr

/-- R161: the clients of the link. -/
inductive Client where
  | snapshot | startup
  deriving DecidableEq, Repr

/-- R160: the operation in hand. -/
structure LinkOp where
  op : FlashOp
  bank : Bank
  client : Client
  deriving DecidableEq, Repr

/-- R160: the running timeout timer, in REFCLK periods; at its limit it stands until the timeout is taken (log entry 5). -/
structure LinkTimer where
  count : Nat
  limit : Nat
  deriving DecidableEq, Repr

/-- R160: the memory link. `writeEnabled` says that the write enable of the operation has been sent (R163, R164);
`mdo` holds the bytes sent on MDO in the flash transaction last completed (R159, R188). -/
structure Link where
  phase : LinkPhase
  op : Option LinkOp
  writeEnabled : Bool
  timer : Option LinkTimer
  mdo : List Byte
  deriving DecidableEq, Repr

/-! ### Start-up logic (chapter 10) -/

/-- The start-up step. -/
inductive StartStep where
  | headerA | headerB | body | done
  deriving DecidableEq, Repr

/-- R171: the judgement of a header. -/
inductive HeaderVerdict where
  | plausible (generation : Nat)
  | implausible
  deriving DecidableEq, Repr

/-- R175: the start-up outcome. -/
inductive StartOutcome where
  | loadedNewer | loadedOlder | blank
  deriving DecidableEq, Repr

/-- The start-up logic's state (chapter 10, opening table). -/
structure Startup where
  step : StartStep
  verdictA : Option HeaderVerdict
  verdictB : Option HeaderVerdict
  copyA : Option (List Byte)
  copyB : Option (List Byte)
  tryOrder : List Bank
  underTest : Option Bank
  runningSum : Nat
  buffer : Option Image
  failedNewer : Bool
  outcome : Option StartOutcome
  deriving DecidableEq, Repr

/-- The levels of the input signals that are held; true is asserted. -/
structure Pins where
  resetN : Bool
  pfwN : Bool
  prstN : PerPort Bool
  deriving DecidableEq, Repr

/-- The whole part, and the queue of commands that wait for it. -/
structure State where
  phase : DevicePhase
  lastServed : Port
  table : List Entry
  pool : List EpochRecord
  urg : Bool
  pln : Bool
  ports : PerPort PortState
  lease : Lease
  accrual : Accrual
  snap : Snapshot
  link : Link
  startup : Startup
  pins : Pins
  freeIndex : Nat
  pending : List Instr
  deriving DecidableEq, Repr

/-- The reasons for which the part stops: the manual has none. A request that cannot be served is answered with a
result code (R137), a bad frame is counted (R132), a failed flash operation is a failure of its client's attempt (R167).
No command raises a fault. -/
inductive Fault where
  deriving DecidableEq, Repr

/-- The reasons for which a command is refused. -/
inductive Refusal where
  /-- A command that has no meaning in this model yet: raised by no command of the table. Safe: the model stops. -/
  | notModelled (mnemonic : String)
  deriving DecidableEq, Repr

/-! ### Reset values -/

/-- R84, R90, R91, R96, R103: the notice unit's part of a port after a reset. -/
def NoticeUnit.empty : NoticeUnit := ⟨[], [], false, 0⟩

/-- R119: a port after a device reset. -/
def PortState.reset : PortState :=
  { attached := false, slots := ⟨.free, .free, .free, .free⟩, arrival := [], answers := [], overrun := 0,
    badFrame := 0, reading := none, notices := .empty }

/-- R104: no lease. -/
def Lease.unheld : Lease := ⟨none, 0, 0, none⟩

/-- R82, R76: the accrual block after a device reset. -/
def Accrual.reset : Accrual := ⟨false, 0, 0, 0, 0, 0⟩

/-- R138: the snapshot unit after a device reset. -/
def Snapshot.reset : Snapshot :=
  { phase := .idle, changeCount := 0, captured := 0, attempt := .first, again := false, waiting := [], buffer := none,
    target := .a, newestBank := none, newestGen := 0, interval := Config.defaultInterval, autosave := none }

/-- R160, R168: the memory link after a device reset. -/
def Link.reset : Link := ⟨.idle, none, false, none, []⟩

/-- R169: the start-up logic after a device reset. -/
def Startup.reset : Startup :=
  { step := .headerA, verdictA := none, verdictB := none, copyA := none, copyB := none, tryOrder := [],
    underTest := none, runningSum := 0, buffer := none, failedNewer := false, outcome := none }

/-- R41: a record that no entry uses. -/
def EpochRecord.zero : EpochRecord := ⟨0, 0⟩

/-- R169: the part right after power-on, which holds it in device reset: RESET_N counts as asserted.
The levels of PFW_N and PRST_N are the model's choice (log entry 2). -/
def State.reset : State :=
  { phase := .starting, lastServed := .p3, table := [], pool := List.replicate Config.poolSize .zero,
    urg := false, pln := false, ports := ⟨.reset, .reset, .reset, .reset⟩, lease := .unheld, accrual := .reset,
    snap := .reset, link := .reset, startup := .reset,
    pins := { resetN := true, pfwN := false, prstN := ⟨false, false, false, false⟩ },
    freeIndex := 0, pending := [] }

end Sys2Proof.Machine
end

