-- ==== Sys2Proof/Machine/Flags.lean ====
section
/-!
DEFINITION. The computations on one entry: score, worst score, verdict machine, published verdict, and the condition of
the summary lines (chapters 2 and 3).
-/
namespace Sys2Proof.Machine

/-- The kind of an entry. -/
def Entry.kind (e : Entry) : Kind :=
  match e.data with
  | .tally _ => .tally
  | .runtime _ _ => .runtime
  | .ratio _ _ => .ratio

/-- R53: the published verdict. -/
def Entry.published (e : Entry) : Verdict :=
  match e.override with
  | .none => e.computed
  | .forceGood => .good
  | .forceTrip => .tripped

/-- R45: whether an entry is a RATIO entry that is not settled. -/
def Entry.unsettled (e : Entry) : Bool :=
  match e.data with
  | .ratio _ st => !st.settled
  | _ => false

/-- R26: the score of a TALLY or RUNTIME entry. -/
def usageScore (raw budget : Nat) : Nat := max 1 (100 - 100 * raw / budget)

/-- R38, step 1: the rate in parts per million. -/
def ratioRate (errors exposure : Nat) : Nat := errors * 1000000 / exposure

/-- R38, step 2: the score of a settled RATIO entry. -/
def ratioScore (errors exposure nominal : Nat) : Nat :=
  max 1 (min 200 (200 - 100 * ratioRate errors exposure / nominal))

/-- R7, R72: an addition to a raw total or a lifetime exposure. -/
def satAdd48 (a b : Nat) : Nat := min (a + b) Config.max48

/-- R40: a new score takes its place, and the worst score follows it down. -/
def Entry.setScore (e : Entry) (score : Nat) : Entry := { e with score := score, worst := min e.worst score }

/-- R49: the release level. -/
def releaseLevel (trip hyst : Nat) : Nat := min 200 (trip + hyst)

/-- R47 to R50: one evaluation of the computed verdict machine. `settledNow` is the settlement indication. -/
def nextVerdict (settledNow : Bool) (cls : IndicatorClass) (score trip hyst : Nat) : Verdict → Verdict
  | .settling => if settledNow then (if score ≤ trip then .tripped else .good) else .settling
  | .good => if score ≤ trip then .tripped else .good
  | .tripped =>
    if releaseLevel trip hyst ≤ score then (match cls with | .planned => .good | .urgent => .held) else .tripped
  | .held => if score ≤ trip then .tripped else .held

/-- R46: the machine is evaluated once against the entry's present inputs. -/
def Entry.evaluate (settledNow : Bool) (e : Entry) : Entry :=
  { e with computed := nextVerdict settledNow e.cls e.score e.trip e.hyst e.computed }

/-- R7, R16, R21: the computed verdict that DEFINE and RENEW set before they evaluate. -/
def initialVerdict : KindData → Verdict
  | .ratio _ _ => .settling
  | .tally _ | .runtime _ _ => .good

/-- R60: URG_N is asserted exactly when some URGENT entry publishes TRIPPED or HELD. -/
def urgCondition (table : List Entry) : Bool :=
  table.any fun e => decide (e.cls = .urgent) && (decide (e.published = .tripped) || decide (e.published = .held))

/-- R60: PLN_N is asserted exactly when some PLANNED entry publishes TRIPPED. -/
def plnCondition (table : List Entry) : Bool :=
  table.any fun e => decide (e.cls = .planned) && decide (e.published = .tripped)

end Sys2Proof.Machine
end

