-- ==== Sys2Proof/Machine/Ops.lean ====
section
/-!
DEFINITION. The named operations over the parts of the state that several commands share: ports and slots, the table and
the pool, the change count, the summary lines.
-/
namespace Sys2Proof.Machine

/-! ### One value per port, four slots per port -/

def PerPort.get (v : PerPort α) : Port → α
  | .p0 => v.p0
  | .p1 => v.p1
  | .p2 => v.p2
  | .p3 => v.p3

def PerPort.set (v : PerPort α) (p : Port) (x : α) : PerPort α :=
  match p with
  | .p0 => { v with p0 := x }
  | .p1 => { v with p1 := x }
  | .p2 => { v with p2 := x }
  | .p3 => { v with p3 := x }

def PerPort.map (f : α → β) (v : PerPort α) : PerPort β := ⟨f v.p0, f v.p1, f v.p2, f v.p3⟩

def Slots.get (v : Slots) : SlotNo → Slot
  | .a => v.a
  | .b => v.b
  | .c => v.c
  | .d => v.d

def Slots.set (v : Slots) (k : SlotNo) (x : Slot) : Slots :=
  match k with
  | .a => { v with a := x }
  | .b => { v with b := x }
  | .c => { v with c := x }
  | .d => { v with d := x }

/-- The slots in ascending order of number. -/
def Slots.toList (v : Slots) : List Slot := [v.a, v.b, v.c, v.d]

/-- R124: the lowest-numbered FREE slot. -/
def Slots.lowestFree (v : Slots) : Option SlotNo :=
  [SlotNo.a, .b, .c, .d].find? fun k => decide (v.get k = .free)

def Slot.isAnswered : Slot → Bool
  | .answered _ => true
  | .free | .queued _ | .inService _ | .waiting _ => false

/-- R125: slots that are not FREE. -/
def PortState.slotsInUse (ps : PortState) : Nat := (ps.slots.toList.filter fun x => decide (x ≠ .free)).length

/-- R125: slots that are ANSWERED. -/
def PortState.answersReady (ps : PortState) : Nat := (ps.slots.toList.filter Slot.isAnswered).length

/-- R119, R132: a count of frames that stays at 255. -/
def satInc255 (n : Nat) : Nat := min (n + 1) 255

/-- One port's state is replaced. -/
def State.modifyPort (s : State) (p : Port) (f : PortState → PortState) : State :=
  { s with ports := s.ports.set p (f (s.ports.get p)) }

/-- R126, R127: a slot becomes ANSWERED and joins the end of the answer order. -/
def PortState.answerSlot (ps : PortState) (k : SlotNo) (a : Answer) : PortState :=
  { ps with slots := ps.slots.set k (.answered a), answers := ps.answers ++ [k] }

/-- R117, R133, R169: whether port p takes no transaction because PRST_N or RESET_N is asserted. -/
def State.portHeld (s : State) (p : Port) : Bool := s.pins.resetN || s.pins.prstN.get p

/-! ### ATN_N and the notice counts -/

/-- R91: the undelivered notices of a port. -/
def NoticeUnit.undelivered (n : NoticeUnit) : Nat := (n.queue.filter fun x => !x.delivered).length

/-- R101: the ATN_N output of a port. -/
def PortState.atn (ps : PortState) : Bool :=
  ps.attached && (decide (0 < ps.notices.undelivered) || ps.notices.lost || decide (0 < ps.answersReady))

/-- R101: the ATN_N output of port p. -/
def State.atnAsserted (s : State) (p : Port) : Bool := (s.ports.get p).atn

/-! ### The table -/

/-- R1: the entry with an id. -/
def findEntry (table : List Entry) (id : Nat) : Option Entry := table.find? fun e => decide (e.id = id)

/-- A changed entry takes its place. -/
def putEntry (table : List Entry) (e : Entry) : List Entry := table.map fun x => if x.id = e.id then e else x

/-- R1: a new entry joins the table, which is kept in ascending order of id. -/
def insertEntry (e : Entry) : List Entry → List Entry
  | [] => [e]
  | x :: xs => if e.id < x.id then e :: x :: xs else x :: insertEntry e xs

/-- R19: an entry leaves the table. -/
def removeEntry (table : List Entry) (id : Nat) : List Entry := table.filter fun e => decide (e.id ≠ id)

/-! ### The epoch pool -/

/-- R30: the epoch records of an entry, closed epochs oldest first, then the open one, then the spares. -/
def Entry.records (e : Entry) : List Nat :=
  match e.data with
  | .ratio _ st => st.closed ++ st.opened :: st.spares
  | .tally _ | .runtime _ _ => []

/-- R41: every record held by some entry. -/
def heldRecords (table : List Entry) : List Nat := table.flatMap Entry.records

/-- R41: a record is free when no entry holds it. -/
def recordFree (table : List Entry) (n : Nat) : Bool := !(heldRecords table).contains n

/-- R41, R42: the free records in ascending order of number. -/
def freeRecords (table : List Entry) : List Nat := (List.range Config.poolSize).filter (recordFree table)

/-- The counts of a record. -/
def recordAt (pool : List EpochRecord) (n : Nat) : EpochRecord := pool.getD n .zero

/-- R33, R43: the counts of records are set to zero. -/
def clearRecords (pool : List EpochRecord) (ns : List Nat) : List EpochRecord :=
  ns.foldl (fun acc n => acc.set n .zero) pool

/-- R43: the given records in ascending order of number. -/
def ascending (ns : List Nat) : List Nat := (List.range Config.poolSize).filter ns.contains

/-- R35: the records of the window: closed epochs and the open epoch. -/
def RatioState.window (st : RatioState) : List Nat := st.closed ++ [st.opened]

/-- R35: the window errors E. -/
def windowErrors (pool : List EpochRecord) (st : RatioState) : Nat :=
  (st.window.map fun n => (recordAt pool n).errors).sum

/-- R35: the window exposure X. -/
def windowExposure (pool : List EpochRecord) (st : RatioState) : Nat :=
  (st.window.map fun n => (recordAt pool n).exposure).sum

/-! ### Change count and summary lines -/

/-- R139: a sum of change counts that stays at 2^32 - 1. -/
def satAdd32 (a b : Nat) : Nat := min (a + b) Config.max32

/-- R11, R139: the change count rises by n. -/
def State.addChanges (s : State) (n : Nat) : State :=
  { s with snap := { s.snap with changeCount := satAdd32 s.snap.changeCount n } }

/-- R11, R60: both lines are evaluated over the whole table. -/
def State.refreshLines (s : State) : State :=
  { s with urg := urgCondition s.table, pln := plnCondition s.table }

/-! ### Number codes of R178 and R182 -/

def Kind.code : Kind → Nat
  | .tally => 1
  | .runtime => 2
  | .ratio => 3

def IndicatorClass.code : IndicatorClass → Nat
  | .urgent => 1
  | .planned => 2

def Gate.code : Gate → Nat
  | .run => 1
  | .powered => 2

def Verdict.code : Verdict → Nat
  | .settling => 1
  | .good => 2
  | .tripped => 3
  | .held => 4

def Override.code : Override → Nat
  | .none => 0
  | .forceGood => 1
  | .forceTrip => 2

def LeaseEndReason.code : LeaseEndReason → Nat
  | .released => 1
  | .expired => 2
  | .portReset => 3

def DevicePhase.code : DevicePhase → Nat
  | .starting => 0
  | .running => 1
  | .frozen => 2

/-- R178: a port. -/
def portCode : Port → Nat
  | .p0 => 0
  | .p1 => 1
  | .p2 => 2
  | .p3 => 3

/-- R178: a holder, 0xFF for none. -/
def holderCode : Option Port → Nat
  | none => 0xFF
  | some p => portCode p

/-- R178: the start-up outcome; none exists before the end of start-up. -/
def outcomeCode : Option StartOutcome → Nat
  | none => 0
  | some .loadedNewer => 1
  | some .loadedOlder => 2
  | some .blank => 3

/-- R182: the result codes. -/
def ResultCode.code : ResultCode → Nat
  | .ok => 0x00
  | .notReady => 0x01
  | .notAttached => 0x02
  | .badRequest => 0x03
  | .noSuchIndicator => 0x10
  | .exists_ => 0x11
  | .tableFull => 0x12
  | .poolShort => 0x13
  | .outOfRange => 0x14
  | .fixedField => 0x15
  | .notWriter => 0x16
  | .notReportable => 0x17
  | .notHolder => 0x20
  | .heldElsewhere => 0x21
  | .frozen => 0x22
  | .watchFull => 0x23
  | .badSequence => 0x24
  | .conditionPresent => 0x25
  | .snapshotFailed => 0x26

/-- R178: the writers set as a byte, bit p for port p. -/
def writersCode (w : PerPort Bool) : Nat :=
  w.p0.toNat + 2 * w.p1.toNat + 4 * w.p2.toNat + 8 * w.p3.toNat

/-- R178: the writers set that a byte below 16 spells. -/
def writersOf (n : Nat) : PerPort Bool := ⟨n.testBit 0, n.testBit 1, n.testBit 2, n.testBit 3⟩

/-! ### Numbers bound for a byte of an answer -/

/-- A number that an answer carries in one byte. -/
def byteList (ns : List Nat) : List Byte := ns.map byteOf

end Sys2Proof.Machine
end

