-- ==== Sys2Proof/Machine/Notices.lean ====
section
/-!
DEFINITION. The notice unit: verdict change, retirement and system events, FETCH and ACK on a queue, watch lists (chapter 5).
-/
namespace Sys2Proof.Machine

/-- R58: a verdict change event. -/
structure VerdictEvent where
  id : Nat
  fromVerdict : Verdict
  toVerdict : Verdict
  score : Nat
  deriving DecidableEq, Repr

/-- R88: a change count of a notice stays at 255. -/
def satCount (n : Nat) : Nat := min (n + 1) 255

/-- R92: an undelivered VERDICT notice for the id. -/
def Notice.isOpenVerdict (id : Nat) (n : Notice) : Bool :=
  match n.body with
  | .verdict i _ _ _ _ => !n.delivered && decide (i = id)
  | .retired _ _ _ | .system _ => false

/-- R92: an undelivered RETIRED notice for the id. -/
def Notice.isOpenRetired (id : Nat) (n : Notice) : Bool :=
  match n.body with
  | .retired i _ _ => !n.delivered && decide (i = id)
  | .verdict _ _ _ _ _ | .system _ => false

/-- R93: the in-place update of a VERDICT notice. -/
def Notice.absorb (ev : VerdictEvent) (n : Notice) : Notice :=
  match n.body with
  | .verdict i fromV _ _ count => { n with body := .verdict i fromV ev.toVerdict ev.score (satCount count) }
  | .retired _ _ _ | .system _ => n

/-- R94: the conversion of a VERDICT notice, and the update of a RETIRED one. -/
def Notice.retire (score : Nat) (n : Notice) : Notice :=
  match n.body with
  | .verdict i _ _ _ count => { n with body := .retired i score count }
  | .retired i _ count => { n with body := .retired i score (satCount count) }
  | .system _ => n

/-- R90, R92, R95: a new notice is appended with the next sequence, or lost in a full queue. -/
def NoticeUnit.append (n : NoticeUnit) (body : NoticeBody) : NoticeUnit :=
  if n.queue.length < Config.queueSize then
    { n with queue := n.queue ++ [⟨(n.seq + 1) % 65536, body, false⟩], seq := (n.seq + 1) % 65536 }
  else { n with lost := true }

/-- R92: a verdict change event reaches the queue of one port. -/
def NoticeUnit.onVerdict (ev : VerdictEvent) (n : NoticeUnit) : NoticeUnit :=
  if n.watch.contains ev.id then
    if n.queue.any (Notice.isOpenVerdict ev.id) then
      { n with queue := n.queue.map fun x => if x.isOpenVerdict ev.id then x.absorb ev else x }
    else if n.queue.any (Notice.isOpenRetired ev.id) then { n with lost := true }
    else n.append (.verdict ev.id ev.fromVerdict ev.toVerdict ev.score 1)
  else n

/-- R94: a retirement event reaches the queue of one port; the watch list is dealt with apart. -/
def NoticeUnit.retireQueue (id score : Nat) (n : NoticeUnit) : NoticeUnit :=
  if n.queue.any (Notice.isOpenVerdict id) then
    { n with queue := n.queue.map fun x => if x.isOpenVerdict id then x.retire score else x }
  else if n.watch.contains id then
    if n.queue.any (Notice.isOpenRetired id) then
      { n with queue := n.queue.map fun x => if x.isOpenRetired id then x.retire score else x }
    else n.append (.retired id score 1)
  else n

/-- R84, R86: an id leaves a watch list. -/
def NoticeUnit.unwatch (id : Nat) (n : NoticeUnit) : NoticeUnit :=
  { n with watch := n.watch.filter fun x => decide (x ≠ id) }

/-- R84, R85: an id joins a watch list, which is kept in ascending order. -/
def insertId (id : Nat) : List Nat → List Nat
  | [] => [id]
  | x :: xs => if id < x then id :: x :: xs else x :: insertId id xs

/-- R99: the place in the queue of the delivered notice with a sequence. -/
def NoticeUnit.ackIndex (n : NoticeUnit) (seq : Nat) : Option Nat :=
  n.queue.findIdx? fun x => x.delivered && decide (x.seq = seq)

/-- R98: the queue after a FETCH, and the lost flag cleared. -/
def NoticeUnit.fetch (n : NoticeUnit) : NoticeUnit :=
  { n with
    queue := (n.queue.take Config.fetchSize).map (fun x => { x with delivered := true }) ++
      n.queue.drop Config.fetchSize
    lost := false }

/-- Every attached port's part of the notice unit is changed (R92, R94, R95). -/
def State.notifyAttached (s : State) (f : NoticeUnit → NoticeUnit) : State :=
  { s with ports := s.ports.map fun ps => if ps.attached then { ps with notices := f ps.notices } else ps }

/-- R92: a verdict change event is handed to the notice unit. -/
def State.verdictEvent (s : State) (ev : VerdictEvent) : State := s.notifyAttached (NoticeUnit.onVerdict ev)

/-- R95: a system event is handed to the notice unit. -/
def State.systemEvent (s : State) (ev : SystemEvent) : State := s.notifyAttached fun n => n.append (.system ev)

/-- R94: a retirement event is handed to the notice unit, and the id leaves every watch list. -/
def State.retirementEvent (s : State) (id score : Nat) : State :=
  let t := s.notifyAttached (NoticeUnit.retireQueue id score)
  { t with ports := t.ports.map fun ps => { ps with notices := ps.notices.unwatch id } }

/-- R58: a changed published verdict is handed on as one event. -/
def State.publish (s : State) (before after : Entry) : State :=
  if before.published = after.published then s
  else s.verdictEvent ⟨after.id, before.published, after.published, after.score⟩

/-- A job changes one entry: it takes its place in the table, and a change of its published verdict is handed on (R58). -/
def State.replaceEntry (s : State) (before after : Entry) : State :=
  State.publish { s with table := putEntry s.table after } before after

/-! ### Records of FETCH (R186) -/

def SystemEvent.code : SystemEvent → Nat
  | .snapshotFailed => 1
  | .leaseEnded _ _ => 2
  | .frozenEntered => 3
  | .frozenLeft => 4

/-- R186: the 12-byte record of a notice. -/
def Notice.bytes (n : Notice) : List Byte :=
  leBytes 2 n.seq ++
  (match n.body with
   | .verdict id fromV toV score count => byteList [1, id, fromV.code, toV.code, score, count, 0, 0xFF, 0]
   | .retired id score count => byteList [2, id, 0, 0, score, count, 0, 0xFF, 0]
   | .system ev =>
     byteList ([3, 0, 0, 0, 0, 1, ev.code] ++
       (match ev with
        | .leaseEnded former reason => [portCode former, reason.code]
        | .snapshotFailed | .frozenEntered | .frozenLeft => [0xFF, 0]))) ++
  [flagByte n.delivered]

end Sys2Proof.Machine
end

