-- ==== Sys2Proof/Machine/Lease.lean ====
section
/-!
DEFINITION. The lease unit's shared operations: restart of the timer, refresh, and the end of the lease with the override
drop (chapter 6; R56 of chapter 3).
-/
namespace Sys2Proof.Machine

/-- R105: a restart of the expiry timer. -/
def Lease.restart (l : Lease) : Lease := { l with remaining := l.duration, prescaler := some 0 }

/-- R107: a port becomes, or stays, holder with the duration carried. -/
def Lease.claimed (p : Port) (duration : Nat) : Lease :=
  { holder := some p, duration := duration, remaining := duration, prescaler := some 0 }

/-- R110: the arrival of a well-formed frame that takes a slot at the holder's port. -/
def State.refreshLease (s : State) (p : Port) : State :=
  if s.lease.holder = some p then { s with lease := s.lease.restart } else s

/-- R56, step 1: an entry without its override. -/
def Entry.dropOverride (e : Entry) : Entry := { e with override := .none }

/-- R56, step 2: the events of the override drop, in ascending order of id (the order of the table). -/
def dropEvents (table : List Entry) : List VerdictEvent :=
  (table.filter fun e => decide (e.published ≠ e.computed)).map fun e => ⟨e.id, e.published, e.computed, e.score⟩

/-- R56: the override drop. -/
def State.overrideDrop (s : State) : State :=
  ((dropEvents s.table).foldl State.verdictEvent { s with table := s.table.map Entry.dropOverride }).refreshLines

/-- R113: the end of the lease, other than by device reset; nothing where no lease is held. -/
def State.endLease (s : State) (reason : LeaseEndReason) : State :=
  match s.lease.holder with
  | none => s
  | some h => (State.overrideDrop { s with lease := .unheld }).systemEvent (.leaseEnded h reason)

/-- R106, R109, R113: the holder and the remaining time, as NOT_HOLDER and HELD_ELSEWHERE carry them. -/
def Lease.holderBody (l : Lease) : List Byte := byteList [holderCode l.holder, l.remaining]

end Sys2Proof.Machine
end

