-- ==== Sys2Proof/Machine/Operands.lean ====
section
/-!
DEFINITION. Request codes, request bodies and the definition fields that a request or an image carries
(R3, R4, R13, R65, R182 to R185).
-/
namespace Sys2Proof.Machine

/-- R182: the requests. -/
inductive RequestCode where
  | attach | detach | define | amend | retire | renew | describe | list | clear | override | report
  | watch | unwatch | fetch | ack | claim | release | save | settings
  deriving DecidableEq, Repr

/-- R182: the request that a code byte selects; none for an unknown code. -/
def requestOf (code : Byte) : Option RequestCode :=
  match code.toNat with
  | 0x01 => some .attach
  | 0x02 => some .detach
  | 0x10 => some .define
  | 0x11 => some .amend
  | 0x12 => some .retire
  | 0x13 => some .renew
  | 0x14 => some .describe
  | 0x15 => some .list
  | 0x16 => some .clear
  | 0x17 => some .override
  | 0x20 => some .report
  | 0x30 => some .watch
  | 0x31 => some .unwatch
  | 0x32 => some .fetch
  | 0x33 => some .ack
  | 0x40 => some .claim
  | 0x41 => some .release
  | 0x50 => some .save
  | 0x51 => some .settings
  | _ => none

/-! ### Bodies of fixed shape (R183); none where the byte count differs -/

def bodyNone : List Byte → Option Unit
  | [] => some ()
  | _ :: _ => none

def bodyByte : List Byte → Option Nat
  | [b] => some b.toNat
  | _ => none

def bodyTwoBytes : List Byte → Option (Nat × Nat)
  | [b, c] => some (b.toNat, c.toNat)
  | _ => none

def bodyWord : List Byte → Option Nat
  | [b, c] => some (leNat [b, c])
  | _ => none

/-! ### Definition fields (R184, R185) -/

/-- R184: the fields behind a presence mask, each present or absent, not yet checked. -/
structure Fields where
  kind : Option Nat
  cls : Option Nat
  gate : Option Nat
  writers : Option Nat
  budget : Option Nat
  nominal : Option Nat
  minExposure : Option Nat
  epochSize : Option Nat
  depth : Option Nat
  trip : Option Nat
  hyst : Option Nat
  label : Option (List Byte)
  deriving DecidableEq, Repr

/-- A number of w bytes at the head of a body, and what follows it. -/
def takeNumber (w : Nat) (bs : List Byte) : Option (Nat × List Byte) :=
  if bs.length < w then none else some (leNat (bs.take w), bs.drop w)

/-- R184: a field that is carried only when its mask bit is set. -/
def takeField (present : Bool) (w : Nat) (bs : List Byte) : Option (Option Nat × List Byte) :=
  if present then (takeNumber w bs).map fun x => (some x.1, x.2) else some (none, bs)

/-- R185: a label behind its length byte. -/
def takeLabel (present : Bool) (bs : List Byte) : Option (Option (List Byte) × List Byte) :=
  if present then
    match bs with
    | [] => none
    | n :: rest => if rest.length < n.toNat then none else some (some (rest.take n.toNat), rest.drop n.toNat)
  else some (none, bs)

/-- R184: the fields behind a mask; none where the body is malformed. -/
def decodeFields (mask : Nat) (bs : List Byte) : Option Fields :=
  if 4096 ≤ mask then none
  else do
    let (kind, bs) ← takeField (mask.testBit 0) 1 bs
    let (cls, bs) ← takeField (mask.testBit 1) 1 bs
    let (gate, bs) ← takeField (mask.testBit 2) 1 bs
    let (writers, bs) ← takeField (mask.testBit 3) 1 bs
    let (budget, bs) ← takeField (mask.testBit 4) 4 bs
    let (nominal, bs) ← takeField (mask.testBit 5) 4 bs
    let (minExposure, bs) ← takeField (mask.testBit 6) 4 bs
    let (epochSize, bs) ← takeField (mask.testBit 7) 4 bs
    let (depth, bs) ← takeField (mask.testBit 8) 1 bs
    let (trip, bs) ← takeField (mask.testBit 9) 1 bs
    let (hyst, bs) ← takeField (mask.testBit 10) 1 bs
    let (label, bs) ← takeLabel (mask.testBit 11) bs
    match bs with
    | [] => some { kind, cls, gate, writers, budget, nominal, minExposure, epochSize, depth, trip, hyst, label }
    | _ :: _ => none

/-- R183: the body of DEFINE and AMEND: the id and the fields behind their mask. -/
def bodyFields : List Byte → Option (Nat × Fields)
  | id :: m0 :: m1 :: bs => (decodeFields (leNat [m0, m1]) bs).map fun f => (id.toNat, f)
  | _ => none

/-- R184, R185: the bytes that DEFINE or AMEND carry for an id and its fields; the encoder beside `bodyFields`. -/
def encodeNumber (w : Nat) : Option Nat → List Byte
  | none => []
  | some n => leBytes w n

def encodeLabel : Option (List Byte) → List Byte
  | none => []
  | some l => byteOf l.length :: l

/-- R184: the presence mask of the fields. -/
def Fields.mask (f : Fields) : Nat :=
  f.kind.isSome.toNat + 2 * f.cls.isSome.toNat + 4 * f.gate.isSome.toNat + 8 * f.writers.isSome.toNat +
  16 * f.budget.isSome.toNat + 32 * f.nominal.isSome.toNat + 64 * f.minExposure.isSome.toNat +
  128 * f.epochSize.isSome.toNat + 256 * f.depth.isSome.toNat + 512 * f.trip.isSome.toNat +
  1024 * f.hyst.isSome.toNat + 2048 * f.label.isSome.toNat

def Fields.bytes (f : Fields) : List Byte :=
  encodeNumber 1 f.kind ++ (encodeNumber 1 f.cls ++ (encodeNumber 1 f.gate ++ (encodeNumber 1 f.writers ++
  (encodeNumber 4 f.budget ++ (encodeNumber 4 f.nominal ++ (encodeNumber 4 f.minExposure ++
  (encodeNumber 4 f.epochSize ++ (encodeNumber 1 f.depth ++ (encodeNumber 1 f.trip ++
  (encodeNumber 1 f.hyst ++ encodeLabel f.label))))))))))

def encodeFieldsBody (id : Nat) (f : Fields) : List Byte := byteOf id :: leBytes 2 f.mask ++ f.bytes

/-! ### REPORT items (R65, R185) -/

/-- R65: the form of an item with its values. -/
inductive ItemValue where
  | tally (increment : Nat)
  | ratio (errors exposure : Nat)
  deriving DecidableEq, Repr

/-- R65: a REPORT item. -/
structure Item where
  id : Nat
  tag : Option Nat
  value : ItemValue
  deriving DecidableEq, Repr

/-- R185: one item at the head of a body, and what follows it. -/
def takeItem : List Byte → Option (Item × List Byte)
  | id :: flags :: bs =>
    if 4 ≤ flags.toNat then none
    else do
      let (tag, bs) ← takeField (flags.toNat.testBit 0) 4 bs
      if flags.toNat.testBit 1 then
        let (errors, bs) ← takeNumber 2 bs
        let (exposure, bs) ← takeNumber 3 bs
        some (⟨id.toNat, tag, .ratio errors exposure⟩, bs)
      else
        let (increment, bs) ← takeNumber 2 bs
        some (⟨id.toNat, tag, .tally increment⟩, bs)
  | _ => none

/-- R65: exactly n items, with nothing after them. -/
def takeItems : Nat → List Byte → Option (List Item)
  | 0, [] => some []
  | 0, _ :: _ => none
  | n + 1, bs => do
    let (item, bs) ← takeItem bs
    let items ← takeItems n bs
    some (item :: items)

/-- R65, R183: the body of REPORT: a count of 1..8 and the items. -/
def bodyItems : List Byte → Option (List Item)
  | n :: bs => if n.toNat = 0 ∨ 8 < n.toNat then none else takeItems n.toNat bs
  | [] => none

/-- R185: the bytes of one item; the encoder beside `takeItem`. -/
def Item.bytes (i : Item) : List Byte :=
  match i.value with
  | .tally n => [byteOf i.id, byteOf i.tag.isSome.toNat] ++ encodeNumber 4 i.tag ++ leBytes 2 n
  | .ratio er ex => [byteOf i.id, byteOf (i.tag.isSome.toNat + 2)] ++ encodeNumber 4 i.tag ++ leBytes 2 er ++ leBytes 3 ex

def encodeItemsBody (items : List Item) : List Byte := byteOf items.length :: items.flatMap Item.bytes

/-! ### From fields to a definition (R3, R4, R5) -/

/-- R4: the kind of a definition with the definition fields that belong to it. -/
inductive KindDef where
  | tally (budget : Nat)
  | runtime (gate : Gate) (budget : Nat)
  | ratio (defn : RatioDef)
  deriving DecidableEq, Repr

/-- R3: a whole definition but for the id. -/
structure Definition where
  kind : KindDef
  cls : IndicatorClass
  writers : PerPort Bool
  trip : Nat
  hyst : Nat
  label : List Byte
  deriving DecidableEq, Repr

/-- R3: a required field within its range. -/
def required (lo hi : Nat) (v : Option Nat) : Option Nat :=
  v.bind fun n => if lo ≤ n ∧ n ≤ hi then some n else none

/-- R3: an optional field within its range, or its default. -/
def optional (lo hi dflt : Nat) (v : Option Nat) : Option Nat := required lo hi (some (v.getD dflt))

/-- R5: at most 16 characters, each in 0x20..0x7E. -/
def labelOk (l : List Byte) : Bool :=
  decide (l.length ≤ 16) && l.all fun c => decide (0x20 ≤ c.toNat) && decide (c.toNat ≤ 0x7E)

/-- R4: the fields of R184's bits 5 to 8, which belong to RATIO alone, are all absent. -/
def Fields.noRatio (f : Fields) : Bool :=
  f.nominal.isNone && f.minExposure.isNone && f.epochSize.isNone && f.depth.isNone

/-- R3, R178: a class value. -/
def classOf : Option Nat → Option IndicatorClass
  | some 1 => some .urgent
  | some 2 => some .planned
  | _ => none

/-- R3, R178: a gate value. -/
def gateOf : Option Nat → Option Gate
  | some 1 => some .run
  | some 2 => some .powered
  | _ => none

/-- R3, R4, R178: the kind with the fields that belong to it; none where one is missing, foreign or out of range. -/
def kindDefOf (f : Fields) : Option KindDef :=
  match f.kind with
  | some 1 =>
    if f.noRatio && f.gate.isNone then (required 1 Config.max32 f.budget).map .tally else none
  | some 2 =>
    if f.noRatio then do
      let gate ← gateOf f.gate
      let budget ← required 1 Config.max32 f.budget
      some (.runtime gate budget)
    else none
  | some 3 =>
    if f.gate.isNone && f.budget.isNone then do
      let nominal ← required 1 1000000 f.nominal
      let minExposure ← required 1 Config.max32 f.minExposure
      let epochSize ← required 1 2147483648 f.epochSize
      let depth ← required 1 8 f.depth
      some (.ratio { nominal, minExposure, epochSize, depth })
    else none
  | _ => none

/-- R3, R4, R5: the definition that fields give, with the defaults of R3; none is OUT_OF_RANGE. -/
def definitionOf (f : Fields) : Option Definition := do
  let kind ← kindDefOf f
  let cls ← classOf f.cls
  let writers ← optional 0 15 15 f.writers
  let trip ← required 0 199 f.trip
  let hyst ← optional 1 50 5 f.hyst
  let label := f.label.getD []
  if labelOk label then some { kind, cls, writers := writersOf writers, trip, hyst, label } else none

/-- R17, R184: a field of an AMEND that is fixed at DEFINE. -/
def Fields.namesFixed (f : Fields) : Bool :=
  f.kind.isSome || f.cls.isSome || f.gate.isSome || !f.noRatio

/-- R18: whether an AMEND carries any amendable field. -/
def Fields.carriesAny (f : Fields) : Bool :=
  f.writers.isSome || f.budget.isSome || f.trip.isSome || f.hyst.isSome || f.label.isSome

/-- R17: every present amendable field lies in its range; a RATIO entry has no budget. -/
def Fields.amendOk (kind : Kind) (f : Fields) : Bool :=
  (f.writers.all fun n => decide (n ≤ 15)) &&
  (f.budget.all fun n => decide (kind ≠ .ratio) && decide (1 ≤ n) && decide (n ≤ Config.max32)) &&
  (f.trip.all fun n => decide (n ≤ 199)) &&
  (f.hyst.all fun n => decide (1 ≤ n) && decide (n ≤ 50)) &&
  (f.label.all labelOk)

/-- R54, R178: an override value. -/
def overrideOf : Nat → Option Override
  | 0 => some .none
  | 1 => some .forceGood
  | 2 => some .forceTrip
  | _ => none

end Sys2Proof.Machine
end

