-- ==== Sys2Proof/Machine/Arbiter.lean ====
section
/-!
DEFINITION. The table arbiter: candidates, the choice of a grant, the checks at grant, and the service of a port request
as one event (R8 to R14).
-/
namespace Sys2Proof.Machine

/-- R8, R9: what the arbiter grants. -/
inductive Grant where
  | capture
  | accrual
  | request (p : Port) (k : SlotNo) (r : Request)
  deriving DecidableEq, Repr

/-- R8: the candidate of a port, its oldest QUEUED request. -/
def PortState.oldestQueued (ps : PortState) : Option (SlotNo × Request) :=
  match ps.arrival with
  | [] => none
  | k :: _ =>
    match ps.slots.get k with
    | .queued r => some (k, r)
    | .free | .inService _ | .waiting _ | .answered _ => none

/-- R9: the cyclic order of the ports that follows a port. -/
def portsAfter : Port → List Port
  | .p0 => [.p1, .p2, .p3, .p0]
  | .p1 => [.p2, .p3, .p0, .p1]
  | .p2 => [.p3, .p0, .p1, .p2]
  | .p3 => [.p0, .p1, .p2, .p3]

/-- R8: the candidate of port p, as a grant. -/
def State.portCandidate (s : State) (p : Port) : Option Grant :=
  (s.ports.get p).oldestQueued.map fun x => .request p x.1 x.2

/-- R9: the first port with a candidate, in the cyclic order that follows the last-served port. -/
def State.portChoice (s : State) : Option Grant := (portsAfter s.lastServed).findSome? s.portCandidate

/-- R9, R12: the arbiter's choice; none while STARTING or without a candidate. -/
def State.arbiterChoice (s : State) : Option Grant :=
  match s.phase with
  | .starting => none
  | .running | .frozen =>
    if s.snap.phase = .capturePending then some .capture
    else if s.accrual.candidate then some .accrual
    else s.portChoice

/-- R10: what the service of a request leaves in its slot. -/
inductive Reply where
  | answer (result : ResultCode) (body : List Byte)
  | wait (binding : Binding)
  deriving DecidableEq, Repr

/-- A refusal that carries the result code alone. -/
def Reply.code (result : ResultCode) : Reply := .answer result []

/-- R9, R10: the grant of port p's oldest request: p is the last-served port, the slot is IN_SERVICE. -/
def State.beginService (s : State) (p : Port) (k : SlotNo) (r : Request) : State :=
  { s with
    lastServed := p
    ports := s.ports.set p
      { s.ports.get p with
        arrival := (s.ports.get p).arrival.tail
        slots := (s.ports.get p).slots.set k (.inService r) } }

/-- R10, R11 step 4, R126, R142: the end of the service: the slot is ANSWERED, or WAITING on the waiting list. -/
def State.endService (s : State) (p : Port) (k : SlotNo) (r : Request) : Reply → State
  | .answer result body => s.modifyPort p fun ps => ps.answerSlot k ⟨r.tag, r.code, result, body⟩
  | .wait binding =>
    let t := s.modifyPort p fun ps => { ps with slots := ps.slots.set k (.waiting r) }
    { t with snap := { t.snap with waiting := t.snap.waiting ++ [⟨p, k, binding⟩] } }

/-- R14: how the checks at grant treat a request. -/
structure RequestRow where
  exemptAttached : Bool
  heldToLease : Bool
  refusedFrozen : Bool
  deriving DecidableEq, Repr

/-- R14: the table of the checks. -/
def requestRow : RequestCode → RequestRow
  | .attach => ⟨true, false, false⟩
  | .detach => ⟨false, false, false⟩
  | .define => ⟨false, true, true⟩
  | .amend => ⟨false, true, true⟩
  | .retire => ⟨false, true, true⟩
  | .renew => ⟨false, true, true⟩
  | .describe => ⟨false, false, false⟩
  | .list => ⟨false, false, false⟩
  | .clear => ⟨false, true, true⟩
  | .override => ⟨false, true, false⟩
  | .report => ⟨false, false, true⟩
  | .watch => ⟨false, false, false⟩
  | .unwatch => ⟨false, false, false⟩
  | .fetch => ⟨false, false, false⟩
  | .ack => ⟨false, false, false⟩
  | .claim => ⟨false, false, false⟩
  | .release => ⟨false, false, false⟩
  | .save => ⟨false, false, false⟩
  | .settings => ⟨false, true, true⟩

/-- R66: the body of a FROZEN answer: REPORT carries a failing-item index of 0. -/
def frozenBody : RequestCode → List Byte
  | .report => [0]
  | _ => []

/-- R13: the first of the checks at grant that fails, before the request's own checks; none when all pass.
`decoded` says whether the body is well formed for the code. -/
def State.checkFailure (s : State) (p : Port) (c : RequestCode) (decoded : Bool) : Option Reply :=
  if !(requestRow c).exemptAttached && !(s.ports.get p).attached then some (.code .notAttached)
  else if !decoded then some (.code .badRequest)
  else if (requestRow c).heldToLease && decide (s.lease.holder ≠ some p) then
    some (.answer .notHolder s.lease.holderBody)
  else if (requestRow c).refusedFrozen && decide (s.phase = .frozen) then some (.answer .frozen (frozenBody c))
  else none

/-- R13: the checks at grant, then the request's own service with its decoded body. -/
def State.checked (s : State) (p : Port) (c : RequestCode) (body : Option α) (service : α → State × Reply) :
    State × Reply :=
  match s.checkFailure p c body.isSome, body with
  | some reply, _ => (s, reply)
  | none, some x => service x
  | none, none => (s, .code .badRequest)

/-- R9, R10: the grant of a request of port p that the filter names, served whole as one event. Where the arbiter's
choice is another, or none, the event is not taken and nothing changes (log entry 3). -/
def State.grantRequest (s : State) (p : Port) (c : Option RequestCode)
    (service : State → SlotNo → Request → State × Reply) : State :=
  match s.arbiterChoice with
  | some (.request q k r) =>
    if q = p ∧ requestOf r.code = c then
      let result := service (s.beginService p k r) k r
      result.1.endService p k r result.2
    else s
  | some .capture | some .accrual | none => s

/-- The grant of a request with known code c, its body decoded and checked before its own service. -/
def State.serve (s : State) (p : Port) (c : RequestCode) (decode : List Byte → Option α)
    (service : State → SlotNo → α → State × Reply) : State :=
  s.grantRequest p (some c) fun t k r => t.checked p c (decode r.body) (service t k)

/-- The outcome of a command of this part: there is always a next state. -/
abbrev Result := Host.Outcome State Fault Refusal

end Sys2Proof.Machine
end

