-- ==== Sys2Proof/Machine/Table.lean ====
section
/-!
DEFINITION. DEFINE, AMEND, RETIRE, RENEW, DESCRIBE, LIST (chapter 1; records of chapter 2; layouts of chapter 11).
-/
namespace Sys2Proof.Machine

/-- R16, R18: the id, the score and the published verdict of an entry, as the OK answers carry them. -/
def Entry.brief (e : Entry) : List Byte := byteList [e.id, e.score, e.published.code]

/-! ### DEFINE -/

/-- R16, R42: the kind data of a new entry; a RATIO entry takes the lowest free records, the first as its open epoch. -/
def KindDef.fresh (free : List Nat) : KindDef → KindData
  | .tally budget => .tally budget
  | .runtime gate budget => .runtime gate budget
  | .ratio d =>
    .ratio d { lifetime := 0, settled := false, closed := [], opened := free.headD 0, spares := (free.take (d.depth + 1)).tail }

/-- R16, steps 1 to 3: the new entry before its evaluation. -/
def newEntry (table : List Entry) (id : Nat) (d : Definition) : Entry :=
  let data := d.kind.fresh (freeRecords table)
  { id, data, cls := d.cls, writers := d.writers, trip := d.trip, hyst := d.hyst, label := d.label, rawTotal := 0,
    saturated := false, score := 100, worst := 100, computed := initialVerdict data, override := .none, tags := [] }

/-- R15, check 4: the records that a definition needs. -/
def KindDef.recordsNeeded : KindDef → Nat
  | .ratio d => d.depth + 1
  | .tally _ | .runtime _ _ => 0

/-- R15, R16: the service of DEFINE after the checks at grant. -/
def State.serviceDefine (id : Nat) (f : Fields) (s : State) : State × Reply :=
  match (if 1 ≤ id ∧ id ≤ 254 then definitionOf f else none) with
  | none => (s, .code .outOfRange)
  | some d =>
    if (findEntry s.table id).isSome then (s, .code .exists_)
    else if Config.tableSize ≤ s.table.length then (s, .code .tableFull)
    else if (freeRecords s.table).length < d.kind.recordsNeeded then
      (s, .answer .poolShort [byteOf (freeRecords s.table).length])
    else
      let e := newEntry s.table id d
      let e' := e.evaluate false
      let t := State.publish { s with table := insertEntry e' s.table } e e'
      ((t.addChanges 1).refreshLines, .answer .ok e'.brief)

/-- R15, R16: grant of a DEFINE. -/
def execDefine (p : Port) (s : State) : Result :=
  .next (s.serve p .define bodyFields fun t _ x => t.serviceDefine x.1 x.2)

/-! ### AMEND -/

/-- R18, step 1: the budget of a TALLY or RUNTIME entry is replaced. -/
def KindData.setBudget (budget : Option Nat) : KindData → KindData
  | .tally b => .tally (budget.getD b)
  | .runtime g b => .runtime g (budget.getD b)
  | .ratio d st => .ratio d st

/-- R18, step 2: the score that follows a change of the budget. -/
def Entry.rescore (e : Entry) : Entry :=
  match e.data with
  | .tally b | .runtime _ b => e.setScore (usageScore e.rawTotal b)
  | .ratio _ _ => e

/-- R18, steps 1 to 3: the amended entry. The machine is evaluated whatever fields are carried (R18 step 3, R46). An AMEND of
label or writers alone then moves nothing, as R18 and R46 say, where the verdict is one that the part itself has made; for a
loaded verdict that disagrees with its score the model's choice is the evaluation (log entry 14). -/
def Entry.amend (f : Fields) (e : Entry) : Entry :=
  let e1 := { e with
    data := e.data.setBudget f.budget
    writers := (f.writers.map writersOf).getD e.writers
    trip := f.trip.getD e.trip
    hyst := f.hyst.getD e.hyst
    label := f.label.getD e.label }
  let e2 := if f.budget.isSome then e1.rescore else e1
  e2.evaluate false

/-- R17, R18: the service of AMEND after the checks at grant. An AMEND with no field changes nothing (R18), though R46 has the
verdict machine evaluated in each AMEND: the two differ for an entry whose loaded verdict disagrees with its score, in an
image that the part did not write, and the model's choice there is R18 (log entry 14). -/
def State.serviceAmend (id : Nat) (f : Fields) (s : State) : State × Reply :=
  match findEntry s.table id with
  | none => (s, .code .noSuchIndicator)
  | some e =>
    if f.namesFixed then (s, .code .fixedField)
    else if !f.amendOk e.kind then (s, .code .outOfRange)
    else if f.carriesAny then
      (((s.replaceEntry e (e.amend f)).addChanges 1).refreshLines, .answer .ok (e.amend f).brief)
    else (s, .answer .ok e.brief)

/-- R17, R18: grant of an AMEND. -/
def execAmend (p : Port) (s : State) : Result :=
  .next (s.serve p .amend bodyFields fun t _ x => t.serviceAmend x.1 x.2)

/-! ### RETIRE -/

/-- R19, R20, R43: the service of RETIRE after the checks at grant. -/
def State.serviceRetire (id : Nat) (s : State) : State × Reply :=
  match findEntry s.table id with
  | none => (s, .code .noSuchIndicator)
  | some e =>
    let t := { s with table := removeEntry s.table id, pool := clearRecords s.pool e.records }
    (((t.retirementEvent id e.score).addChanges 1).refreshLines, .answer .ok (byteList [id]))

/-- R19: grant of a RETIRE. -/
def execRetire (p : Port) (s : State) : Result :=
  .next (s.serve p .retire bodyByte fun t _ id => t.serviceRetire id)

/-! ### RENEW -/

/-- R21 step 3, R43: the records of a RATIO entry are arranged as at DEFINE. -/
def KindData.renew : KindData → KindData
  | .tally b => .tally b
  | .runtime g b => .runtime g b
  | .ratio d st =>
    let records := ascending (st.closed ++ st.opened :: st.spares)
    .ratio d { lifetime := 0, settled := false, closed := [], opened := records.headD 0, spares := records.tail }

/-- R21, steps 1 to 8: the renewed entry. -/
def Entry.renew (e : Entry) : Entry :=
  Entry.evaluate false { e with
    data := e.data.renew, rawTotal := 0, saturated := false, score := 100, worst := 100,
    computed := initialVerdict e.data, tags := [] }

/-- R21: the service of RENEW after the checks at grant. -/
def State.serviceRenew (id : Nat) (s : State) : State × Reply :=
  match findEntry s.table id with
  | none => (s, .code .noSuchIndicator)
  | some e =>
    let t := { s with pool := clearRecords s.pool e.records }
    (((t.replaceEntry e e.renew).addChanges 1).refreshLines, .answer .ok (byteList [id]))

/-- R21: grant of a RENEW. -/
def execRenew (p : Port) (s : State) : Result :=
  .next (s.serve p .renew bodyByte fun t _ id => t.serviceRenew id)

/-! ### DESCRIBE -/

/-- R184: the mask of the definition fields that belong to a kind. -/
def kindMask : Kind → Nat
  | .tally => 0xE1B
  | .runtime => 0xE1F
  | .ratio => 0xFEB

/-- The gate code of an entry, 0 where absent (R178). -/
def KindData.gateCode : KindData → Nat
  | .runtime g _ => g.code
  | .tally _ | .ratio _ _ => 0

/-- The budget of an entry, 0 where absent (R178). -/
def KindData.budgetCode : KindData → Nat
  | .tally b | .runtime _ b => b
  | .ratio _ _ => 0

/-- The RATIO definition fields of an entry, 0 where absent (R178). -/
def KindData.ratioCode : KindData → RatioDef
  | .ratio d _ => d
  | .tally _ | .runtime _ _ => ⟨0, 0, 0, 0⟩

/-- The RATIO state fields of an entry, empty where absent (R178). -/
def KindData.lifetimeCode : KindData → Nat
  | .ratio _ st => st.lifetime
  | .tally _ | .runtime _ _ => 0

/-- Whether an entry is a settled RATIO entry. -/
def KindData.settledFlag : KindData → Bool
  | .ratio _ st => st.settled
  | .tally _ | .runtime _ _ => false

/-- R22: the epoch window summary: closed epochs, window errors, window exposure. -/
def windowSummary (pool : List EpochRecord) : KindData → List Byte
  | .ratio _ st =>
    [byteOf st.closed.length] ++ leBytes 6 (windowErrors pool st) ++ leBytes 6 (windowExposure pool st)
  | .tally _ | .runtime _ _ => zeros 13

/-- R70, R186, R187: a tag history as eight tags of four bytes, unused ones 0. -/
def tagBytes (tags : List Nat) : List Byte := padTo 32 (tags.flatMap (leBytes 4))

/-- R22, R186: the 108-byte DESCRIBE record. -/
def Entry.describeRecord (pool : List EpochRecord) (e : Entry) : List Byte :=
  let r := e.data.ratioCode
  byteList [e.id, e.kind.code, e.cls.code, e.data.gateCode, writersCode e.writers] ++
  leBytes 2 (kindMask e.kind) ++
  leBytes 4 e.data.budgetCode ++ leBytes 4 r.nominal ++ leBytes 4 r.minExposure ++ leBytes 4 r.epochSize ++
  byteList [r.depth, e.trip, e.hyst, e.label.length] ++ padTo 16 e.label ++
  leBytes 6 e.rawTotal ++ leBytes 6 e.data.lifetimeCode ++
  [flagByte e.saturated, flagByte e.data.settledFlag] ++
  byteList [e.score, e.worst, e.computed.code, e.override.code, e.published.code, e.tags.length] ++
  tagBytes e.tags ++ windowSummary pool e.data

/-- R22: the service of DESCRIBE after the checks at grant. -/
def State.serviceDescribe (id : Nat) (s : State) : State × Reply :=
  match findEntry s.table id with
  | none => (s, .code .noSuchIndicator)
  | some e => (s, .answer .ok (e.describeRecord s.pool))

/-- R22: grant of a DESCRIBE. -/
def execDescribe (p : Port) (s : State) : Result :=
  .next (s.serve p .describe bodyByte fun t _ id => t.serviceDescribe id)

/-! ### LIST -/

/-- R23: the entries at or above the start id, in ascending order of id. -/
def listFrom (table : List Entry) (start : Nat) : List Entry := table.filter fun e => decide (start ≤ e.id)

/-- R23, R183: what LIST gives of one entry. -/
def Entry.listItem (e : Entry) : List Byte := byteList [e.id, e.kind.code, e.cls.code, e.published.code, e.score]

/-- R23: the body of a LIST answer. -/
def listBody (table : List Entry) (start : Nat) : List Byte :=
  let found := listFrom table start
  byteList [(found.take Config.listSize).length, (decide (Config.listSize < found.length)).toNat] ++
    (found.take Config.listSize).flatMap Entry.listItem

/-- R23: grant of a LIST. -/
def execList (p : Port) (s : State) : Result :=
  .next (s.serve p .list bodyByte fun t _ start => (t, .answer .ok (listBody t.table start)))

end Sys2Proof.Machine
end

