-- ==== Sys2Proof/Machine/ImageFormat.lean ====
section
/-!
DEFINITION. The image: what the capture writes and what start-up reads and checks (R145, R171, R174, R187).
-/
namespace Sys2Proof.Machine

/-! ### Writing -/

/-- R187: the descriptor byte of an entry record. -/
def Entry.descriptor (e : Entry) : Nat :=
  e.kind.code + (match e.cls with | .urgent => 0 | .planned => 4) + 8 * e.data.gateCode +
    32 * e.saturated.toNat + 64 * e.data.settledFlag.toNat

/-- R187: the closed epoch count of an entry, 0 for TALLY and RUNTIME. -/
def KindData.closedCount : KindData → Nat
  | .ratio _ st => st.closed.length
  | .tally _ | .runtime _ _ => 0

/-- R187: the 64-byte entry record. -/
def Entry.recordBytes (e : Entry) : List Byte :=
  let r := e.data.ratioCode
  byteList [e.id, e.descriptor, writersCode e.writers, e.trip, e.hyst, r.depth] ++
  leBytes 4 e.data.budgetCode ++ leBytes 4 r.nominal ++ leBytes 4 r.minExposure ++ leBytes 4 r.epochSize ++
  leBytes 6 e.rawTotal ++ leBytes 6 e.data.lifetimeCode ++
  byteList [e.score, e.worst, e.computed.code, e.label.length] ++ padTo 16 e.label ++
  byteList [e.data.closedCount] ++ padTo 9 (byteList e.records)

/-- R187: the 8 bytes of an epoch record. -/
def EpochRecord.bytes (r : EpochRecord) : List Byte := leBytes 4 r.errors ++ leBytes 4 r.exposure

/-- R145 step 3, R187: the body of an image. -/
def imageBody (table : List Entry) (pool : List EpochRecord) : List Byte :=
  padTo 4096 (table.flatMap Entry.recordBytes) ++ padTo 2048 (pool.flatMap EpochRecord.bytes) ++
    padTo 2048 (table.flatMap fun e => tagBytes e.tags)

/-- R145: the check word that makes the sum of the body words and itself 0 modulo 2^32. -/
def checkWord (body : List Byte) : Nat := (Config.two32 - wordSum body % Config.two32) % Config.two32

/-- R187: the header page. -/
def imageHeader (generation check interval count : Nat) : List Byte :=
  padTo 256 (leBytes 4 Config.marker ++ leBytes 2 Config.formatVersion ++ leBytes 4 generation ++
    leBytes 2 Config.bodyLength ++ leBytes 4 check ++ leBytes 2 interval ++ leBytes 1 count)

/-- R145: the image of the table, the pool and the settings. -/
def captureImage (table : List Entry) (pool : List EpochRecord) (generation interval : Nat) : Image :=
  let body := imageBody table pool
  ⟨imageHeader generation (checkWord body) interval table.length, body⟩

/-! ### Header fields (R187) -/

def headerMarker (h : List Byte) : Nat := fieldAt h 0 4
def headerVersion (h : List Byte) : Nat := fieldAt h 4 2
def headerGeneration (h : List Byte) : Nat := fieldAt h 6 4
def headerLength (h : List Byte) : Nat := fieldAt h 10 2
def headerCheck (h : List Byte) : Nat := fieldAt h 12 4
def headerInterval (h : List Byte) : Nat := fieldAt h 16 2
def headerCount (h : List Byte) : Nat := fieldAt h 18 1

/-- R171: the judgement of a header read whole. -/
def judgeHeader (h : List Byte) : HeaderVerdict :=
  if headerMarker h = Config.marker ∧ headerVersion h = Config.formatVersion ∧
      headerLength h = Config.bodyLength ∧ headerGeneration h ≠ 0 then
    .plausible (headerGeneration h)
  else .implausible

/-- R145, R148, R173: the check word confirms the body. -/
def checkPasses (header body : List Byte) : Bool :=
  decide ((wordSum body + headerCheck header) % Config.two32 = 0)

/-- R158, R187: page n of the body, n in 1..32. -/
def bodyPage (body : List Byte) (n : Nat) : List Byte := (body.drop (256 * (n - 1))).take 256

/-- R158: page n of an image, page 0 the header. -/
def Image.page (i : Image) (n : Nat) : List Byte := if n = 0 then i.header else bodyPage i.body n

/-! ### Reading and the content check (R174) -/

/-- R187: entry record k of a body. -/
def entryRecord (body : List Byte) (k : Nat) : List Byte := (body.drop (64 * k)).take 64

/-- R187: the tag history of entry record k: the nonzero tags before the first 0. -/
def tagHistory (body : List Byte) (k : Nat) : List Nat :=
  ((List.range 8).map fun j => fieldAt body (6144 + 32 * k + 4 * j) 4).takeWhile fun t => decide (t ≠ 0)

/-- R187: the epoch records of a body. -/
def imagePool (body : List Byte) : List EpochRecord :=
  (List.range Config.poolSize).map fun n => ⟨fieldAt body (4096 + 8 * n) 4, fieldAt body (4100 + 8 * n) 4⟩

/-- R187: a field stored as 0 where it is absent. -/
def storedField (n : Nat) : Option Nat := if n = 0 then none else some n

/-- R187: the definition fields of an entry record, as DEFINE would carry them (R174, definitions). -/
def recordFields (r : List Byte) : Fields :=
  let d := fieldAt r 1 1
  { kind := some (d % 4)
    cls := some (if d.testBit 2 then 2 else 1)
    gate := storedField (d / 8 % 4)
    writers := some (fieldAt r 2 1)
    budget := storedField (fieldAt r 6 4)
    nominal := storedField (fieldAt r 10 4)
    minExposure := storedField (fieldAt r 14 4)
    epochSize := storedField (fieldAt r 18 4)
    depth := storedField (fieldAt r 5 1)
    trip := some (fieldAt r 3 1)
    hyst := some (fieldAt r 4 1)
    label := some ((r.drop 38).take (fieldAt r 37 1)) }

/-- R178: a verdict value. -/
def verdictOf : Nat → Option Verdict
  | 1 => some .settling
  | 2 => some .good
  | 3 => some .tripped
  | 4 => some .held
  | _ => none

/-- R187: the epoch record numbers of an entry record. -/
def recordNumbers (r : List Byte) : List Nat := ((r.drop 55).take 9).map BitVec.toNat

/-- R174, R187: the kind data of an entry record; none where the epoch records are not as R174 requires
(for TALLY and RUNTIME, which name none, see log entry 15). -/
def recordData (r : List Byte) : KindDef → Option KindData
  | .tally b => if fieldAt r 54 1 = 0 ∧ (recordNumbers r).all (· == 0) ∧ fieldAt r 28 6 = 0 then some (.tally b) else none
  | .runtime g b =>
    if fieldAt r 54 1 = 0 ∧ (recordNumbers r).all (· == 0) ∧ fieldAt r 28 6 = 0 then some (.runtime g b) else none
  | .ratio d =>
    let c := fieldAt r 54 1
    let ns := (recordNumbers r).take (d.depth + 1)
    if c ≤ d.depth ∧ ns.length = d.depth + 1 then
      some (.ratio d
        { lifetime := fieldAt r 28 6, settled := (fieldAt r 1 1).testBit 6, closed := ns.take c,
          opened := (ns.drop c).headD 0, spares := (ns.drop c).tail })
    else none

/-- R174: scores, verdicts and tag history of an entry agree with its kind and class. -/
def Entry.contentOk (e : Entry) : Bool :=
  decide (1 ≤ e.score) && decide (e.score ≤ (if e.kind = .ratio then 200 else 100)) &&
  (!e.unsettled || decide (e.score = 100)) &&
  decide (1 ≤ e.worst) && decide (e.worst ≤ 100) && decide (e.worst ≤ e.score) &&
  (decide (e.computed = .settling) == e.unsettled) &&
  (decide (e.computed ≠ .held) || decide (e.cls = .urgent)) &&
  (decide (e.kind ≠ .runtime) || e.tags.isEmpty) && decide e.tags.Nodup

/-- R174: the entry that record k of a body holds; none where a check of its rows fails. -/
def recordEntry (body : List Byte) (k : Nat) : Option Entry :=
  let r := entryRecord body k
  let id := fieldAt r 0 1
  if id = 0 ∨ 254 < id then none
  else do
    let d ← definitionOf (recordFields r)
    let data ← recordData r d.kind
    let computed ← verdictOf (fieldAt r 36 1)
    let e : Entry :=
      { id, data, cls := d.cls, writers := d.writers, trip := d.trip, hyst := d.hyst, label := d.label,
        rawTotal := fieldAt r 22 6, saturated := (fieldAt r 1 1).testBit 5, score := fieldAt r 34 1,
        worst := fieldAt r 35 1, computed, override := .none, tags := tagHistory body k }
    if e.contentOk then some e else none

/-- R187: the entry records in use: those whose id is not 0. -/
def usedRecords (body : List Byte) : List Nat :=
  (List.range Config.tableSize).filter fun k => decide (fieldAt body (64 * k) 1 ≠ 0)

/-- All of a list, or none. -/
def collect : List (Option α) → Option (List α)
  | [] => some []
  | none :: _ => none
  | some x :: xs => (collect xs).map (x :: ·)

/-- R174, epoch records: no record is named twice, an unnamed record holds zero counts, and no error count exceeds its
exposure count. -/
def poolOk (table : List Entry) (pool : List EpochRecord) : Bool :=
  decide (heldRecords table).Nodup &&
  ((List.range Config.poolSize).all fun n => !recordFree table n || decide (recordAt pool n = .zero)) &&
  (pool.all fun r => decide (r.errors ≤ r.exposure))

/-- R187: the table is kept in ascending order of id. -/
def sortEntries (es : List Entry) : List Entry := es.foldr insertEntry []

/-- R174, R176: what a proved image puts into the table and the pool; none where the content check fails. -/
def loadImage (i : Image) : Option (List Entry × List EpochRecord) :=
  if headerInterval i.header ≤ 1440 ∧ headerCount i.header ≤ Config.tableSize ∧
      (usedRecords i.body).length = headerCount i.header then
    match collect ((usedRecords i.body).map (recordEntry i.body)) with
    | none => none
    | some es =>
      if (es.map Entry.id).Nodup ∧ poolOk es (imagePool i.body) then some (sortEntries es, imagePool i.body) else none
  else none

end Sys2Proof.Machine
end

