-- ==== Sys2Proof/Machine/Snapshots.lean ====
section
/-!
DEFINITION. The snapshot unit: requests, SAVE, SETTINGS, capture, the sequences of writing and verifying, success and
failure, the autosave timer and the FROZEN phase (chapter 8).
-/
namespace Sys2Proof.Machine

/-! ### Handing an operation to the memory link -/

/-- R161, R162: the link takes an operation and enters its ready wait. -/
def Link.hand (l : Link) (op : LinkOp) : Link :=
  { l with phase := .readyWait, op := some op, writeEnabled := false, timer := some ⟨0, Config.longLimit⟩ }

/-- R161: a client hands an operation to the link. -/
def State.handOp (s : State) (op : FlashOp) (bank : Bank) (client : Client) : State :=
  { s with link := s.link.hand ⟨op, bank, client⟩ }

/-- R161: the link reports the end of its operation and returns to IDLE. -/
def State.linkIdle (s : State) : State :=
  { s with link := { s.link with phase := .idle, op := none, writeEnabled := false, timer := none } }

/-! ### Requests and the autosave timer -/

/-- R143: the REFCLK periods of an interval, none where the timer is left stopped. -/
def autosavePeriods (interval : Nat) : Option Nat :=
  if interval = 0 then none else some (interval * 60 * Config.secondPeriods)

/-- R143: the autosave timer is started with the interval in force. -/
def Snapshot.startAutosave (n : Snapshot) : Snapshot := { n with autosave := autosavePeriods n.interval }

/-- R140: an autosave request or a power-fail request. -/
def Snapshot.request (n : Snapshot) : Snapshot :=
  if n.changeCount = 0 then n
  else
    match n.phase with
    | .idle => { n with phase := .capturePending }
    | .capturePending => n
    | .writing | .verifying => { n with again := true }

/-- R143: expiry of the autosave timer; a stopped timer does not expire. -/
def execAutosaveExpiry (s : State) : Result :=
  .next (if s.snap.autosave.isSome then { s with snap := s.snap.request.startAutosave } else s)

/-! ### SAVE and SETTINGS -/

/-- R141: the service of SAVE after the checks at grant. -/
def State.serviceSave (s : State) : State × Reply :=
  match s.snap.phase with
  | .idle =>
    if s.snap.changeCount = 0 then (s, .answer .ok (leBytes 4 s.snap.newestGen ++ leBytes 4 0))
    else ({ s with snap := { s.snap with phase := .capturePending } }, .wait .current)
  | .capturePending => (s, .wait .current)
  | .writing | .verifying =>
    if s.snap.changeCount = 0 then (s, .wait .current)
    else ({ s with snap := { s.snap with again := true } }, .wait .next)

/-- R141: grant of a SAVE. -/
def execSave (p : Port) (s : State) : Result :=
  .next (s.serve p .save bodyNone fun t _ _ => t.serviceSave)

/-- R144: the service of SETTINGS after the checks at grant. -/
def State.serviceSettings (interval : Nat) (s : State) : State × Reply :=
  if 1440 < interval then (s, .code .outOfRange)
  else
    (State.addChanges { s with snap := Snapshot.startAutosave { s.snap with interval := interval } } 1,
     .answer .ok (leBytes 2 interval))

/-- R144: grant of a SETTINGS. -/
def execSettings (p : Port) (s : State) : Result :=
  .next (s.serve p .settings bodyWord fun t _ interval => t.serviceSettings interval)

/-! ### Capture -/

/-- R146: the generation of the next image. -/
def nextGeneration (g : Nat) : Nat := if g = Config.max32 then 1 else g + 1

/-- R146: the target bank of the next image. -/
def nextTarget : Option Bank → Bank
  | none => .a
  | some .a => .b
  | some .b => .a

/-- R145: the capture. -/
def State.capture (s : State) : State :=
  let snap := { s.snap with
    captured := s.snap.changeCount
    changeCount := 0
    attempt := .first
    target := nextTarget s.snap.newestBank
    buffer := some (captureImage s.table s.pool (nextGeneration s.snap.newestGen) s.snap.interval)
    phase := .writing }
  State.handOp { s with snap := snap } (.erase 0) (nextTarget s.snap.newestBank) .snapshot

/-- R145: grant of the capture job. -/
def execCaptureJob (s : State) : Result :=
  .next <|
    match s.arbiterChoice with
    | some .capture => s.capture
    | some .accrual | some (.request _ _ _) | none => s

/-! ### End of a snapshot -/

/-- R142: a waiting SAVE is answered; its slot becomes ANSWERED and joins its port's answer order. -/
def State.answerSave (result : ResultCode) (body : List Byte) (s : State) (w : WaitingSave) : State :=
  s.modifyPort w.port fun ps =>
    match ps.slots.get w.slot with
    | .waiting r => ps.answerSlot w.slot ⟨r.tag, r.code, result, body⟩
    | .free | .queued _ | .inService _ | .answered _ => ps

/-- R142: the SAVEs bound to the current snapshot, in list order. -/
def Snapshot.due (n : Snapshot) : List WaitingSave := n.waiting.filter fun w => decide (w.binding = .current)

/-- R142: after the end of a snapshot, the SAVEs bound to the next one are bound to the current one. -/
def Snapshot.rebind (n : Snapshot) : Snapshot :=
  { n with waiting := (n.waiting.filter fun w => decide (w.binding = .next)).map fun w => { w with binding := .current } }

/-- R149 step 2, R150 step 2: the end of the snapshot for its waiting SAVEs. -/
def State.answerSaves (s : State) (result : ResultCode) (body : List Byte) : State :=
  let t := s.snap.due.foldl (State.answerSave result body) s
  { t with snap := t.snap.rebind }

/-- R149 step 4, R150 step 5, R151: the phase after the end of a snapshot. -/
def Snapshot.afterEnd (n : Snapshot) : Snapshot :=
  if n.again then { n with again := false, phase := .capturePending } else { n with phase := .idle }

/-- R149, R150: the autosave timer starts again and the phase moves on. -/
def State.endSnapshot (s : State) : State := { s with snap := s.snap.startAutosave.afterEnd }

/-- R149: the success of a snapshot; its generation is that of the image in the buffer. -/
def State.snapshotSuccess (s : State) (image : Image) : State :=
  let generation := headerGeneration image.header
  let t := { s with snap := { s.snap with newestBank := some s.snap.target, newestGen := generation } }
  (t.answerSaves .ok (leBytes 4 generation ++ leBytes 4 s.snap.captured)).endSnapshot

/-- R150: the second failure of a snapshot. -/
def State.snapshotFailure (s : State) : State :=
  let t := s.addChanges s.snap.captured
  ((t.answerSaves .snapshotFailed (leBytes 4 t.snap.newestGen)).systemEvent .snapshotFailed).endSnapshot

/-- R150: the failure of a write attempt. -/
def State.attemptFailure (s : State) : State :=
  match s.snap.attempt with
  | .first =>
    State.handOp { s with snap := { s.snap with attempt := .second, phase := .writing } } (.erase 0) s.snap.target .snapshot
  | .second => s.snapshotFailure

/-! ### The sequences of writing and verifying -/

/-- R147: the completion of an erase or a program of the snapshot unit: the next operation of the sequence. -/
def State.writeCompleted (s : State) : FlashOp → State
  | .erase k =>
    if k < 3 then s.handOp (.erase (k + 1)) s.snap.target .snapshot else s.handOp (.program 1) s.snap.target .snapshot
  | .program n =>
    if n = 0 then
      State.handOp { s with snap := { s.snap with phase := .verifying } } (.read 1) s.snap.target .snapshot
    else if n < 32 then s.handOp (.program (n + 1)) s.snap.target .snapshot
    else s.handOp (.program 0) s.snap.target .snapshot
  | .read _ => s

/-- R148: a page read back. Every body page before it equalled the buffer's, so the sum of the body read is the sum of the
buffer body when the header arrives. -/
def State.verifyPage (s : State) (n : Nat) (data : List Byte) : State :=
  match s.snap.buffer with
  | none => s.attemptFailure
  | some image =>
    if data ≠ image.page n then s.attemptFailure
    else if n = 0 then (if checkPasses data image.body then s.snapshotSuccess image else s.attemptFailure)
    else if n < 32 then s.handOp (.read (n + 1)) s.snap.target .snapshot
    else s.handOp (.read 0) s.snap.target .snapshot

/-! ### The FROZEN phase -/

/-- R154: PFW_N asserts; outside RUNNING only its level is kept. -/
def execPfwAssert (s : State) : Result :=
  let t := { s with pins := { s.pins with pfwN := true } }
  .next <|
    match s.phase with
    | .running =>
      let u := State.systemEvent { t with phase := .frozen } .frozenEntered
      { u with snap := u.snap.request }
    | .starting | .frozen => t

/-- R81: after a thaw the accrual job is a candidate when a pending count is above 0. -/
def Accrual.thaw (a : Accrual) : Accrual :=
  { a with candidate := a.candidate || decide (0 < a.pendRun) || decide (0 < a.pendPowered) }

/-- R156: PFW_N deasserts; outside FROZEN only its level is kept. -/
def execPfwDeassert (s : State) : Result :=
  let t := { s with pins := { s.pins with pfwN := false } }
  .next <|
    match s.phase with
    | .frozen =>
      let u := State.systemEvent { t with phase := .running } .frozenLeft
      { u with accrual := u.accrual.thaw }
    | .starting | .running => t

end Sys2Proof.Machine
end

