-- ==== Sys2Proof/Machine/StartUp.lean ====
section
/-!
DEFINITION. Device reset, the reading and judging of headers, the proof of a bank, and the end of start-up (chapter 10).
-/
namespace Sys2Proof.Machine

/-- R169: the device reset. The levels of PFW_N and PRST_N are not the part's, and commands still waiting stay
(log entries 2 and 17). -/
def execDeviceReset (s : State) : Result :=
  .next { State.reset with
    pins := { s.pins with resetN := true }, freeIndex := s.freeIndex, pending := s.pending }

/-- R169: RESET_N deasserts: the second timer starts from zero and the first header read is handed to the link. -/
def execResetDeassert (s : State) : Result :=
  .next <|
    if s.pins.resetN then
      State.handOp
        { s with pins := { s.pins with resetN := false }, accrual := { s.accrual with secondTimer := 0 } }
        (.read 0) .a .startup
    else s

/-- R172: generation a is newer than generation b. -/
def newerGeneration (a b : Nat) : Bool :=
  let d := (a + Config.two32 - b) % Config.two32
  decide (1 ≤ d) && decide (d ≤ 2147483647)

/-- R172: the try order. -/
def tryOrderOf : HeaderVerdict → HeaderVerdict → List Bank
  | .implausible, .implausible => []
  | .plausible _, .implausible => [.a]
  | .implausible, .plausible _ => [.b]
  | .plausible a, .plausible b => if newerGeneration b a then [.b, .a] else [.a, .b]

/-- The header copy of a bank. -/
def Startup.copyOf (u : Startup) : Bank → Option (List Byte)
  | .a => u.copyA
  | .b => u.copyB

/-- R175: the outcome of a start-up that proved a bank, or none. -/
def startOutcome (proved : Option Bank) (failedNewer : Bool) : StartOutcome :=
  match proved with
  | none => .blank
  | some _ => if failedNewer then .loadedOlder else .loadedNewer

/-- R175, R176 step 4: the values that the end of start-up gives to the snapshot unit. -/
def Snapshot.startWith (n : Snapshot) (outcome : StartOutcome) (bank : Option Bank) (generation interval : Nat) : Snapshot :=
  Snapshot.startAutosave { n with
    newestBank := bank, newestGen := generation, interval := interval
    changeCount := (match outcome with | .loadedOlder => 1 | .loadedNewer | .blank => 0) }

/-- R176 step 6: the start-up logic after the end of start-up (log entry 16). -/
def Startup.finish (u : Startup) (outcome : StartOutcome) : Startup :=
  { Startup.reset with step := .done, failedNewer := u.failedNewer, outcome := some outcome }

/-- R176: the end of start-up with what takes effect: table, pool, newest bank, its generation and the interval. -/
def State.endStartup (s : State) (table : List Entry) (pool : List EpochRecord) (proved : Option Bank)
    (generation interval : Nat) : State :=
  let outcome := startOutcome proved s.startup.failedNewer
  let t := State.refreshLines { s with table := table, pool := pool }
  { t with
    snap := t.snap.startWith outcome proved generation interval
    phase := if s.pins.pfwN then .frozen else .running
    startup := s.startup.finish outcome }

/-- R175: the blank start. -/
def State.blankStart (s : State) : State :=
  s.endStartup [] (List.replicate Config.poolSize .zero) none 0 Config.defaultInterval

/-- R173: the bank at the head of the try order becomes the bank under test; with no bank left, the start is blank. -/
def State.tryNext (s : State) : State :=
  match s.startup.tryOrder with
  | [] => s.blankStart
  | bank :: _ =>
    State.handOp
      { s with startup := { s.startup with
          underTest := some bank, runningSum := 0, buffer := some ⟨(s.startup.copyOf bank).getD [], []⟩ } }
      (.read 1) bank .startup

/-- R174: the bank under test fails and leaves the try order. -/
def State.bankFailed (s : State) : State :=
  State.tryNext { s with startup := { s.startup with
    failedNewer := s.startup.failedNewer || decide (s.startup.tryOrder.length = 2)
    tryOrder := s.startup.tryOrder.tail, underTest := none, buffer := none, runningSum := 0 } }

/-- R171: the header of bank A has been judged; the header of bank B is read next. -/
def State.headerADone (s : State) (v : HeaderVerdict) (copy : Option (List Byte)) : State :=
  State.handOp
    { s with startup := { s.startup with verdictA := some v, copyA := copy, step := .headerB } } (.read 0) .b .startup

/-- R171, R172: the header of bank B has been judged; the try order is formed and the first bank is tried. -/
def State.headerBDone (s : State) (v : HeaderVerdict) (copy : Option (List Byte)) : State :=
  State.tryNext { s with startup := { s.startup with
    verdictB := some v, copyB := copy, step := .body, tryOrder := tryOrderOf (s.startup.verdictA.getD .implausible) v } }

/-- R173, R174: the bank under test has been read whole: check word, content check, end of start-up or failure. -/
def State.judgeBank (s : State) (image : Image) (sum : Nat) : State :=
  if (sum + headerCheck image.header) % Config.two32 = 0 then
    match loadImage image with
    | some x => s.endStartup x.1 x.2 s.startup.underTest (headerGeneration image.header) (headerInterval image.header)
    | none => s.bankFailed
  else s.bankFailed

/-- R173: page n of the bank under test arrives. -/
def State.bodyPageRead (s : State) (n : Nat) (data : List Byte) : State :=
  let old := s.startup.buffer.getD ⟨[], []⟩
  let image : Image := { old with body := old.body ++ data }
  let sum := (s.startup.runningSum + wordSum data) % Config.two32
  let t := { s with startup := { s.startup with buffer := some image, runningSum := sum } }
  if n < 32 then t.handOp (.read (n + 1)) (s.startup.underTest.getD .a) .startup else t.judgeBank image sum

/-- R171, R173: a page read of the start-up logic completes. -/
def State.startupPage (s : State) (n : Nat) (data : List Byte) : State :=
  match s.startup.step with
  | .headerA => s.headerADone (judgeHeader data) (some data)
  | .headerB => s.headerBDone (judgeHeader data) (some data)
  | .body => s.bodyPageRead n data
  | .done => s

/-- R167, R171, R173: a page read of the start-up logic fails. -/
def State.startupFailure (s : State) : State :=
  match s.startup.step with
  | .headerA => s.headerADone .implausible none
  | .headerB => s.headerBDone .implausible none
  | .body => s.bankFailed
  | .done => s

end Sys2Proof.Machine
end

