-- ==== Sys2Proof/Machine/MemoryLink.lean ====
section
/-!
DEFINITION. The memory link: addresses, the bytes it sends, its signals and bits, the completion of each flash transaction and the timeouts
(chapter 9; R188, R189).
-/
namespace Sys2Proof.Machine

/-! ### Addresses and bytes on MDO -/

/-- R158: the first address of a bank. -/
def Bank.base : Bank → Nat
  | .a => 0x000000
  | .b => 0x004000

/-- R158: the address of sector k of a bank. -/
def sectorAddress (bank : Bank) (k : Nat) : Nat := bank.base + k * 0x1000

/-- R158: the address of page n of a bank. -/
def pageAddress (bank : Bank) (n : Nat) : Nat := bank.base + n * 0x100

/-- R157, R189: an address, most significant byte first. -/
def addressBytes (a : Nat) : List Byte := (leBytes 3 a).reverse

/-- R188: the flash commands. -/
def cmdRead : Byte := 0x03
def cmdWriteEnable : Byte := 0x06
def cmdProgram : Byte := 0x02
def cmdErase : Byte := 0x20
def cmdStatus : Byte := 0x05

/-- R163, R164, R165, R188, R189: the bytes sent on MDO for the command of an operation, page data apart. -/
def LinkOp.commandBytes (o : LinkOp) : List Byte :=
  match o.op with
  | .erase k => cmdErase :: addressBytes (sectorAddress o.bank k)
  | .program n => cmdProgram :: addressBytes (pageAddress o.bank n)
  | .read n => cmdRead :: addressBytes (pageAddress o.bank n)

/-- R164: the 256 bytes of a page of the image buffer. -/
def Snapshot.pageData (s : Snapshot) (n : Nat) : List Byte :=
  match s.buffer with
  | some image => image.page n
  | none => []

/-- The bytes of a flash transaction are recorded as sent. -/
def State.sent (s : State) (bytes : List Byte) : State := { s with link := { s.link with mdo := bytes } }

/-! ### Signals and bits of the link (R159, R168) -/

/-- R159: the levels of the link's outputs: MCS_N asserted, MCK high, MDO high. -/
structure FlashSignals where
  mcs : Bool
  mck : Bool
  mdo : Bool
  deriving DecidableEq, Repr

/-- R159, R168: MCS_N deasserted, MCK and MDO held low. -/
def FlashSignals.rest : FlashSignals := ⟨false, false, false⟩

/-- R159: the levels in the two halves of one MCK period that sends a bit: MCK idles low, and MDO changes as it falls. -/
def bitLevels (bit : Bool) : List FlashSignals := [⟨true, false, bit⟩, ⟨true, true, bit⟩]

/-- R159: the levels while bytes are sent on MDO, each most significant bit first. -/
def sentLevels (bytes : List Byte) : List FlashSignals := (bytes.flatMap bitsOfByte).flatMap bitLevels

/-- R159: the command that the eight bits of a status read on MDI, most significant first, amount to. -/
def statusReadOfBits (mdi : List Bool) : Option Instr :=
  match bytesOfBits mdi with
  | [status] => some (.statusRead status)
  | [] | _ :: _ :: _ => none

/-- R159: the command that the bits of a page read on MDI amount to. -/
def pageReadOfBits (mdi : List Bool) : Instr := .pageRead (bytesOfBits mdi)

/-- R159: the five flash transactions. -/
inductive FlashTransaction where
  | statusRead
  | writeEnable
  | sectorErase (address : Nat)
  | pageProgram (address : Nat) (data : List Byte)
  | pageRead (address : Nat)
  deriving DecidableEq, Repr

/-- R159, R188, R189: the bytes that a flash transaction sends on MDO. -/
def FlashTransaction.sent : FlashTransaction → List Byte
  | .statusRead => [cmdStatus]
  | .writeEnable => [cmdWriteEnable]
  | .sectorErase a => cmdErase :: addressBytes a
  | .pageProgram a data => cmdProgram :: addressBytes a ++ data
  | .pageRead a => cmdRead :: addressBytes a

/-- R159: the number of bytes that a flash transaction takes from MDI, after those it sends. -/
def FlashTransaction.taken : FlashTransaction → Nat
  | .statusRead => 1
  | .writeEnable | .sectorErase _ | .pageProgram _ _ => 0
  | .pageRead _ => 256

/-- R159: the link's outputs in the successive halves of the MCK periods of a flash transaction, from the assertion of MCS_N
to its deassertion: first the bytes sent, then as many periods as the bytes taken need. In these MCS_N stays asserted and
MCK goes on; the level of MDO is a free value (log entry 26). -/
def FlashTransaction.levels (t : FlashTransaction) (free : Nat) : List FlashSignals :=
  sentLevels t.sent ++ (List.range (8 * t.taken)).flatMap fun n => bitLevels (Config.mdoWhileTaking free n)

/-- R159: the bits that a flash transaction takes, from the levels of MDI in the same halves of the MCK periods: MDI is sampled
on the rising edges of MCK, and the samples during the bytes sent are not used. -/
def FlashTransaction.takenBits (t : FlashTransaction) (free : Nat) (mdi : List Bool) : List Bool :=
  (risingSamples false (((t.levels free).map FlashSignals.mck).zip mdi)).drop (8 * t.sent.length)

/-- R159: the command that a completed flash transaction amounts to, from the bits it took. -/
def FlashTransaction.command (bits : List Bool) : FlashTransaction → Option Instr
  | .statusRead => statusReadOfBits bits
  | .writeEnable => some .writeEnable
  | .sectorErase _ => some .sectorEraseTransaction
  | .pageProgram _ _ => some .pageProgramTransaction
  | .pageRead _ => some (pageReadOfBits bits)

/-- R162 to R166: the flash transaction that the link makes next, or is making: status reads in the two waits; in COMMAND the
write enable before an erase or a program, then the command of the operation. None without an operation in hand, and none
while RESET_N is asserted (R168). -/
def State.transaction (s : State) : Option FlashTransaction :=
  if s.pins.resetN then none
  else
    match s.link.op, s.link.phase with
    | none, _ | some _, .idle => none
    | some _, .readyWait | some _, .busyWait => some .statusRead
    | some ⟨.erase k, bank, _⟩, .command =>
      some (if s.link.writeEnabled then .sectorErase (sectorAddress bank k) else .writeEnable)
    | some ⟨.program n, bank, _⟩, .command =>
      some (if s.link.writeEnabled then .pageProgram (pageAddress bank n) (s.snap.pageData n) else .writeEnable)
    | some ⟨.read n, bank, _⟩, .command => some (.pageRead (pageAddress bank n))

/-- R159, R168: the link's outputs at one moment: in half `moment` of the MCK periods of the link's transaction, counted from
the assertion of MCS_N, or at rest: where no transaction is in progress (`moment` is none), behind its last half, without
an operation in hand, and while RESET_N is asserted. -/
def State.flashSignals (s : State) (moment : Option Nat) : FlashSignals :=
  match s.transaction, moment with
  | some t, some n => (t.levels s.freeIndex).getD n .rest
  | none, _ | some _, none => .rest

/-! ### Reports to the clients (R161, R167) -/

/-- R163, R164: the erase or program in hand completes. -/
def State.writeDone (s : State) (o : LinkOp) : State := s.linkIdle.writeCompleted o.op

/-- R165: the page read in hand completes with its data. -/
def State.readDone (s : State) (o : LinkOp) (n : Nat) (data : List Byte) : State :=
  match o.client with
  | .snapshot => s.linkIdle.verifyPage n data
  | .startup => s.linkIdle.startupPage n data

/-- R167: the operation in hand fails. -/
def State.opFailed (s : State) (o : LinkOp) : State :=
  match o.client with
  | .snapshot => s.linkIdle.attemptFailure
  | .startup => s.linkIdle.startupFailure

/-! ### Completed transactions -/

/-- R162, R166, R189: the busy bit of a status byte. -/
def busyBit (status : Byte) : Bool := status.getLsbD 0

/-- R162, R166: a status read completes; in READY_WAIT a clear busy bit leads to COMMAND, in BUSY_WAIT it completes the
operation; a set busy bit leads to another status read. No status read is made in the other phases (log entry 3). -/
def execStatusRead (status : Byte) (s : State) : Result :=
  .next <|
    match s.link.phase, s.link.op with
    | .readyWait, some _ =>
      let t := s.sent [cmdStatus]
      if busyBit status then t else { t with link := { t.link with phase := .command, timer := none } }
    | .busyWait, some o =>
      let t := s.sent [cmdStatus]
      if busyBit status then t else t.writeDone o
    | .readyWait, none | .busyWait, none | .idle, _ | .command, _ => s

/-- R163, R164: the write enable transaction completes. -/
def execWriteEnable (s : State) : Result :=
  .next <|
    match s.link.phase, s.link.op with
    | .command, some ⟨.erase _, _, _⟩ | .command, some ⟨.program _, _, _⟩ =>
      if s.link.writeEnabled then s
      else { s with link := { s.link with writeEnabled := true, mdo := [cmdWriteEnable] } }
    | .command, some ⟨.read _, _, _⟩ | .command, none | .idle, _ | .readyWait, _ | .busyWait, _ => s

/-- R163, R164: the command has been sent and the busy wait begins with its limit. -/
def Link.startBusyWait (l : Link) (limit : Nat) (bytes : List Byte) : Link :=
  { l with phase := .busyWait, timer := some ⟨0, limit⟩, mdo := bytes }

/-- R163: the sector erase transaction completes. -/
def execSectorEraseTransaction (s : State) : Result :=
  .next <|
    match s.link.phase, s.link.op with
    | .command, some ⟨.erase k, bank, c⟩ =>
      if s.link.writeEnabled then
        { s with link := s.link.startBusyWait Config.longLimit (LinkOp.commandBytes ⟨.erase k, bank, c⟩) }
      else s
    | .command, some ⟨.program _, _, _⟩ | .command, some ⟨.read _, _, _⟩ | .command, none
    | .idle, _ | .readyWait, _ | .busyWait, _ => s

/-- R164: the page program transaction completes. -/
def execPageProgramTransaction (s : State) : Result :=
  .next <|
    match s.link.phase, s.link.op with
    | .command, some ⟨.program n, bank, c⟩ =>
      if s.link.writeEnabled then
        let bytes := LinkOp.commandBytes ⟨.program n, bank, c⟩ ++ s.snap.pageData n
        { s with link := s.link.startBusyWait Config.programLimit bytes }
      else s
    | .command, some ⟨.erase _, _, _⟩ | .command, some ⟨.read _, _, _⟩ | .command, none
    | .idle, _ | .readyWait, _ | .busyWait, _ => s

/-- R165: the page read transaction completes. A read of another number of bytes than 256 is no page read (R159). -/
def execPageRead (data : List Byte) (s : State) : Result :=
  .next <|
    if data.length = 256 then
      match s.link.phase, s.link.op with
      | .command, some ⟨.read n, bank, c⟩ =>
        State.readDone (s.sent (LinkOp.commandBytes ⟨.read n, bank, c⟩)) ⟨.read n, bank, c⟩ n data
      | .command, some ⟨.erase _, _, _⟩ | .command, some ⟨.program _, _, _⟩ | .command, none
      | .idle, _ | .readyWait, _ | .busyWait, _ => s
    else s

/-- R162: the timer expires during the ready wait; the status read in progress is completed and not used (log entry 11). -/
def execReadyWaitTimeout (s : State) : Result :=
  .next <|
    match s.link.phase, s.link.op with
    | .readyWait, some o => s.opFailed o
    | .readyWait, none | .idle, _ | .command, _ | .busyWait, _ => s

/-- R166: the timer reaches its limit during the busy wait; the status read in progress is completed and not used
(log entry 11). -/
def execBusyWaitTimeout (s : State) : Result :=
  .next <|
    match s.link.phase, s.link.op with
    | .busyWait, some o => s.opFailed o
    | .busyWait, none | .idle, _ | .readyWait, _ | .command, _ => s

end Sys2Proof.Machine
end

