-- ==== Sys2Proof/Machine/Clock.lean ====
section
/-!
DEFINITION. One REFCLK period with no command waiting (log entry 5): the running timers count, and a timer that has reached
its end has its own row's command taken before any further time passes.
-/
namespace Sys2Proof.Machine

/-! ### Timers at their end -/

/-- R76: the second timer has measured a second. -/
def Accrual.due (a : Accrual) : Bool := decide (Config.secondPeriods ≤ a.secondTimer)

/-- R105: the unit prescaler has measured a lease unit. -/
def Lease.due (l : Lease) : Bool :=
  match l.holder, l.prescaler with
  | some _, some n => decide (Config.leaseUnitPeriods ≤ n)
  | none, _ | some _, none => false

/-- R143: the autosave timer has expired. -/
def Snapshot.expired (n : Snapshot) : Bool := decide (n.autosave = some 0)

/-- R162, R166: the timeout timer has reached its limit. -/
def Link.timedOut (l : Link) : Bool :=
  match l.op, l.timer with
  | some _, some t => decide (t.limit ≤ t.count)
  | none, _ | some _, none => false

/-- R105, R111: the event of a completed lease unit: the last one is the expiry (log entry 9). -/
def Lease.unitEvent (l : Lease) : Instr := if l.remaining ≤ 1 then .leaseExpiry else .leaseUnitComplete

/-- R162, R166: the event of the timeout timer, according to the wait it measures. -/
def Link.timeoutEvent (l : Link) : List Instr :=
  match l.phase with
  | .readyWait => [.readyWaitTimeout]
  | .busyWait => [.busyWaitTimeout]
  | .idle | .command => []

/-- The events of the timers that stand at their end, in the order of the blocks. -/
def State.dueEvents (s : State) : List Instr :=
  (if s.accrual.due then [.secondTick (Config.runLevel s.freeIndex)] else []) ++
  (if s.lease.due then [s.lease.unitEvent] else []) ++
  (if s.snap.expired then [.autosaveExpiry] else []) ++
  (if s.link.timedOut then s.link.timeoutEvent else [])

/-! ### Counting -/

/-- R76: the second timer after one period. -/
def Accrual.clock (a : Accrual) : Accrual := { a with secondTimer := a.secondTimer + 1 }

/-- R105: the unit prescaler after one period. -/
def Lease.clock (l : Lease) : Lease := { l with prescaler := l.prescaler.map fun n => n + 1 }

/-- R143: the autosave timer after one period. -/
def Snapshot.clock (n : Snapshot) : Snapshot := { n with autosave := n.autosave.map fun left => left - 1 }

/-- R162, R166: the timeout timer after one period. -/
def Link.clock (l : Link) : Link := { l with timer := l.timer.map fun t => ⟨t.count + 1, t.limit⟩ }

/-- R76, R105, R143, R162: every running timer counts one period. -/
def State.clock (s : State) : State :=
  { s with accrual := s.accrual.clock, lease := s.lease.clock, snap := s.snap.clock, link := s.link.clock }

/-- What happens when no command waits. While RESET_N is asserted no timer runs (R169). While a timer stands at its end no
time passes: one event of such a timer is taken, chosen by a free value where there are several (log entry 7), and what it
restarts is due no more (R152, last column of the row on the autosave expiry). Otherwise one REFCLK period passes. -/
def State.refclk (s : State) : State :=
  if s.pins.resetN then s
  else
    match s.dueEvents with
    | [] => s.clock
    | e :: es =>
      { s with
        pending := s.pending ++ [(e :: es).getD (Config.raceOrder s.freeIndex % (e :: es).length) e]
        freeIndex := s.freeIndex + 1 }

end Sys2Proof.Machine
end

