-- ==== Sys2Proof/Machine/Report.lean ====
section
/-!
DEFINITION. REPORT: validation of the batch, duplicate suppression, raw values, the epoch window, scoring and verdict
(chapter 4, sections 4.1 to 4.3; chapter 2, sections 2.3 and 2.4).
-/
namespace Sys2Proof.Machine

/-! ### Validation -/

/-- R68: the range check of an item against the kind of its entry. -/
def Item.inRange (i : Item) (kind : Kind) : Bool :=
  decide (i.tag ≠ some 0) &&
  (match kind, i.value with
   | .tally, .tally n => decide (1 ≤ n)
   | .ratio, .ratio er ex => decide (1 ≤ ex) && decide (er ≤ ex)
   | .tally, .ratio _ _ | .ratio, .tally _ | .runtime, _ => false)

/-- R67: the first check that an item fails. -/
def Item.failure (table : List Entry) (p : Port) (i : Item) : Option ResultCode :=
  match findEntry table i.id with
  | none => some .noSuchIndicator
  | some e =>
    if e.kind = .runtime then some .notReportable
    else if !e.writers.get p then some .notWriter
    else if !i.inRange e.kind then some .outOfRange
    else none

/-- R67: the first item of the batch that fails, with its position counted from `first`. -/
def batchFailure (table : List Entry) (p : Port) : (first : Nat) → List Item → Option (ResultCode × Nat)
  | _, [] => none
  | n, i :: is =>
    match i.failure table p with
    | some code => some (code, n)
    | none => batchFailure table p (n + 1) is

/-! ### Applying an item -/

/-- R70: a tag enters a history as the newest. -/
def enterTag (tag : Nat) (tags : List Nat) : List Nat :=
  (if Config.tagSize ≤ tags.length then tags.tail else tags) ++ [tag]

/-- R69 step 2: the tag of an item enters the history of its entry. -/
def Entry.enterTag (tag : Option Nat) (e : Entry) : Entry :=
  match tag with
  | none => e
  | some t => { e with tags := Machine.enterTag t e.tags }

/-- R27, R28, R72, R39: units are added to a TALLY or RUNTIME entry in one step, then score, worst score and verdict. -/
def Entry.addUnits (budget n : Nat) (e : Entry) : Entry :=
  let raw := satAdd48 e.rawTotal n
  Entry.evaluate false
    (Entry.setScore { e with rawTotal := raw, saturated := e.saturated || decide (raw = Config.max48) }
      (usageScore raw budget))

/-- R31, R34: the sum of an epoch record and an item's counts, exactly, as far as the 32-bit counts can hold it. An open epoch
of an image that the part did not write may take them past 2^32 - 1 (R174 sets no bound on it); each count that passes is
a free value within what R34 says of every record: below 2^32, an exposure of at least 1, and no error count above the
exposure (log entry 23). -/
def EpochRecord.add (free n : Nat) (r : EpochRecord) (errors exposure : Nat) : EpochRecord :=
  let e := r.errors + errors
  let x := r.exposure + exposure
  let errors' := if e ≤ Config.max32 then e else Config.overflowedErrors free n e x % Config.two32
  let least := max 1 errors'
  ⟨errors',
   if x ≤ Config.max32 then x else least + Config.overflowedExposure free n e x % (Config.two32 - least)⟩

/-- R31: counts are added to record n. -/
def addCounts (free : Nat) (pool : List EpochRecord) (n errors exposure : Nat) : List EpochRecord :=
  pool.set n ((recordAt pool n).add free n errors exposure)

/-- R32 to R34: the open epoch closes when its exposure has reached the epoch size, with eviction of the oldest closed
epoch when the window is full. A closing leaves the open epoch empty (R34): the record that becomes the open epoch holds
zero counts, also where an image that the part did not write gave a spare other ones (log entry 25). -/
def closeEpoch (d : RatioDef) (pool : List EpochRecord) (st : RatioState) : List EpochRecord × RatioState :=
  if (recordAt pool st.opened).exposure < d.epochSize then (pool, st)
  else if st.closed.length < d.depth then
    match st.spares with
    | [] => (pool, st)
    | x :: xs => (pool.set x .zero, { st with closed := st.closed ++ [st.opened], opened := x, spares := xs })
  else
    match st.closed with
    | [] => (pool, st)
    | x :: xs => (pool.set x .zero, { st with closed := xs ++ [st.opened], opened := x })

/-- R36: the settlement test. -/
def settle (d : RatioDef) (pool : List EpochRecord) (st : RatioState) : RatioState :=
  { st with settled := st.settled || decide (d.minExposure ≤ windowExposure pool st) }

/-- R36, R38: the score of a RATIO entry. -/
def ratioScoreOf (d : RatioDef) (pool : List EpochRecord) (st : RatioState) : Nat :=
  if st.settled then ratioScore (windowErrors pool st) (windowExposure pool st) d.nominal else 100

/-- R39: one applied item of a RATIO entry: counts, epoch, settlement, score, worst score, verdict. -/
def Entry.addObservation (free : Nat) (d : RatioDef) (st : RatioState) (errors exposure : Nat) (pool : List EpochRecord)
    (e : Entry) : List EpochRecord × Entry :=
  let raw := satAdd48 e.rawTotal errors
  let life := satAdd48 st.lifetime exposure
  let closed := closeEpoch d (addCounts free pool st.opened errors exposure) { st with lifetime := life }
  let st' := settle d closed.1 closed.2
  let e1 := { e with
    rawTotal := raw
    saturated := e.saturated || decide (raw = Config.max48) || decide (life = Config.max48)
    data := .ratio d st' }
  (closed.1, Entry.evaluate (!st.settled && st'.settled) (e1.setScore (ratioScoreOf d closed.1 st')))

/-- R69: one item of a validated batch; the flag says that it was applied and not a duplicate (R71). -/
def State.applyItem (s : State) (i : Item) : State × Bool :=
  match findEntry s.table i.id with
  | none => (s, false)
  | some e =>
    if (i.tag.any e.tags.contains) then (s, false)
    else
      match e.data, i.value with
      | .tally budget, .tally n => (s.replaceEntry e ((e.enterTag i.tag).addUnits budget n), true)
      | .ratio d st, .ratio errors exposure =>
        let r := (e.enterTag i.tag).addObservation s.freeIndex d st errors exposure s.pool
        (State.replaceEntry { s with pool := r.1 } e r.2, true)
      | .tally _, .ratio _ _ | .ratio _ _, .tally _ | .runtime _ _, _ => (s, false)

/-- R69, R73: the items in batch order; the number is that of the applied items. -/
def State.applyItems : State → List Item → State × Nat
  | s, [] => (s, 0)
  | s, i :: is =>
    let one := s.applyItem i
    let rest := one.1.applyItems is
    (rest.1, one.2.toNat + rest.2)

/-- R67, R69, R73: the service of REPORT after the checks at grant. -/
def State.serviceReport (p : Port) (items : List Item) (s : State) : State × Reply :=
  match batchFailure s.table p 1 items with
  | some (code, n) => (s, .answer code (byteList [n]))
  | none =>
    let r := s.applyItems items
    ((r.1.addChanges r.2).refreshLines, .answer .ok (byteList [r.2, items.length - r.2]))

/-- R66, R69: grant of a REPORT. -/
def execReport (p : Port) (s : State) : Result :=
  .next (s.serve p .report bodyItems fun t _ items => t.serviceReport p items)

end Sys2Proof.Machine
end

