-- ==== Sys2Proof/Machine/Accrual.lean ====
section
/-!
DEFINITION. The second tick and the accrual job (chapter 4, sections 4.4 and 4.5).
-/
namespace Sys2Proof.Machine

/-- R77: a count of seconds stays at 65535. -/
def satAdd16 (a b : Nat) : Nat := min (a + b) 65535

/-- R77: a second tick in RUNNING or FROZEN. -/
def Accrual.tick (run : Bool) (a : Accrual) : Accrual :=
  { a with
    candidate := true
    owedPowered := satAdd16 a.owedPowered 1
    owedRun := if run then satAdd16 a.owedRun 1 else a.owedRun }

/-- R76, R77: expiry of the second timer, with RUN as sampled. The timer stands still while RESET_N is asserted (R169). -/
def execSecondTick (run : Bool) (s : State) : Result :=
  .next <|
    if s.pins.resetN then s
    else
      let a := { s.accrual with secondTimer := 0 }
      match s.phase with
      | .starting => { s with accrual := a }
      | .running | .frozen => { s with accrual := a.tick run }

/-- R78: the seconds that an entry is owed; none for an entry that is not RUNTIME. -/
def Entry.owed (a : Accrual) (e : Entry) : Nat :=
  match e.data with
  | .runtime .run _ => a.owedRun + a.pendRun
  | .runtime .powered _ => a.owedPowered + a.pendPowered
  | .tally _ | .ratio _ _ => 0

/-- R78: an entry after the job has added its seconds. -/
def Entry.accrue (a : Accrual) (e : Entry) : Entry :=
  match e.data with
  | .runtime _ budget => if e.owed a = 0 then e else e.addUnits budget (e.owed a)
  | .tally _ | .ratio _ _ => e

/-- R78: the visit of one entry, with the event of its published verdict. -/
def State.visit (a : Accrual) (s : State) (e : Entry) : State :=
  if e.owed a = 0 then s else s.replaceEntry e (e.accrue a)

/-- R78, R82: the four counts are set to 0. -/
def Accrual.clearCounts (a : Accrual) : Accrual :=
  { a with owedRun := 0, owedPowered := 0, pendRun := 0, pendPowered := 0 }

/-- R80: the owed seconds are held over. -/
def Accrual.holdOver (a : Accrual) : Accrual :=
  { a with
    owedRun := 0, owedPowered := 0
    pendRun := satAdd16 a.pendRun a.owedRun, pendPowered := satAdd16 a.pendPowered a.owedPowered }

/-- R79: whether the job adds a sum above 0 to some entry. -/
def State.accrualChanges (s : State) : Bool := s.table.any fun e => decide (e.owed s.accrual ≠ 0)

/-- R78, R79: the accrual job in RUNNING: the entries in ascending order of id. -/
def State.accrueAll (s : State) : State :=
  let t := s.table.foldl (State.visit s.accrual) s
  (State.addChanges { t with accrual := t.accrual.clearCounts } s.accrualChanges.toNat).refreshLines

/-- R78, R80: grant of the accrual job. -/
def execAccrualJob (s : State) : Result :=
  .next <|
    match s.arbiterChoice with
    | some .accrual =>
      let t := { s with accrual := { s.accrual with candidate := false } }
      match t.phase with
      | .running => t.accrueAll
      | .frozen => { t with accrual := t.accrual.holdOver }
      | .starting => t
    | some .capture | some (.request _ _ _) | none => s

end Sys2Proof.Machine
end

