-- ==== Sys2Proof/Machine/LeaseRequests.lean ====
section
/-!
DEFINITION. CLAIM, RELEASE and the lease unit's own events (chapter 6).
-/
namespace Sys2Proof.Machine

/-- R107: the service of CLAIM after the checks at grant. -/
def State.serviceClaim (p : Port) (duration : Nat) (s : State) : State × Reply :=
  if duration = 0 then (s, .code .outOfRange)
  else if s.lease.holder = none ∨ s.lease.holder = some p then
    ({ s with lease := .claimed p duration }, .answer .ok (byteList [portCode p, duration, duration]))
  else (s, .answer .heldElsewhere s.lease.holderBody)

/-- R107: grant of a CLAIM. -/
def execClaim (p : Port) (s : State) : Result :=
  .next (s.serve p .claim bodyByte fun t _ duration => t.serviceClaim p duration)

/-- R109: the service of RELEASE after the checks at grant. -/
def State.serviceRelease (p : Port) (s : State) : State × Reply :=
  if s.lease.holder = some p then (s.endLease .released, .code .ok)
  else (s, .answer .notHolder s.lease.holderBody)

/-- R109: grant of a RELEASE. -/
def execRelease (p : Port) (s : State) : Result :=
  .next (s.serve p .release bodyNone fun t _ _ => t.serviceRelease p)

/-- R105: a lease unit completes. The completion that takes the remaining time to 0 is the expiry (log entry 9). -/
def execLeaseUnitComplete (s : State) : Result :=
  .next <|
    if s.lease.holder = none then s
    else if s.lease.remaining ≤ 1 then s.endLease .expired
    else { s with lease := { s.lease with remaining := s.lease.remaining - 1, prescaler := some 0 } }

/-- R105, R111: the remaining time falls to 0: the lease ends EXPIRED. It can fall to 0 from 1 alone (log entry 9). -/
def execLeaseExpiry (s : State) : Result :=
  .next (if s.lease.remaining ≤ 1 then s.endLease .expired else s)

end Sys2Proof.Machine
end

