-- ==== Sys2Proof/Machine/NoticeRequests.lean ====
section
/-!
DEFINITION. WATCH, UNWATCH, FETCH, ACK (chapter 5).
-/
namespace Sys2Proof.Machine

/-- The notice unit's part of one port is changed. -/
def State.modifyNotices (s : State) (p : Port) (f : NoticeUnit → NoticeUnit) : State :=
  s.modifyPort p fun ps => { ps with notices := f ps.notices }

/-- R85: the body of an OK answer to WATCH; `count` ids are on the list. -/
def Entry.watchBody (count : Nat) (e : Entry) : List Byte := byteList [e.id, e.published.code, e.score, count]

/-- R85: the service of WATCH after the checks at grant. -/
def State.serviceWatch (p : Port) (id : Nat) (s : State) : State × Reply :=
  let n := (s.ports.get p).notices
  match findEntry s.table id with
  | none => (s, .code .noSuchIndicator)
  | some e =>
    if n.watch.contains id then (s, .answer .ok (e.watchBody n.watch.length))
    else if Config.watchSize ≤ n.watch.length then (s, .code .watchFull)
    else
      (s.modifyNotices p fun n => { n with watch := insertId id n.watch }, .answer .ok (e.watchBody (n.watch.length + 1)))

/-- R85: grant of a WATCH. -/
def execWatch (p : Port) (s : State) : Result :=
  .next (s.serve p .watch bodyByte fun t _ id => t.serviceWatch p id)

/-- R86: the service of UNWATCH after the checks at grant. -/
def State.serviceUnwatch (p : Port) (id : Nat) (s : State) : State × Reply :=
  (s.modifyNotices p (NoticeUnit.unwatch id),
   .answer .ok (byteList [id, ((s.ports.get p).notices.unwatch id).watch.length]))

/-- R86: grant of an UNWATCH. -/
def execUnwatch (p : Port) (s : State) : Result :=
  .next (s.serve p .unwatch bodyByte fun t _ id => t.serviceUnwatch p id)

/-- R98: the body of a FETCH answer, from the notice unit as it stood before. -/
def NoticeUnit.fetchBody (n : NoticeUnit) : List Byte :=
  let taken := n.queue.take Config.fetchSize
  byteList [taken.length, n.lost.toNat, n.fetch.undelivered] ++ taken.flatMap Notice.bytes

/-- R98: the service of FETCH after the checks at grant. -/
def State.serviceFetch (p : Port) (s : State) : State × Reply :=
  (s.modifyNotices p NoticeUnit.fetch, .answer .ok (s.ports.get p).notices.fetchBody)

/-- R98: grant of a FETCH. -/
def execFetch (p : Port) (s : State) : Result :=
  .next (s.serve p .fetch bodyNone fun t _ _ => t.serviceFetch p)

/-- R99: the service of ACK after the checks at grant. -/
def State.serviceAck (p : Port) (seq : Nat) (s : State) : State × Reply :=
  let n := (s.ports.get p).notices
  match n.ackIndex seq with
  | none => (s, .code .badSequence)
  | some i =>
    (s.modifyNotices p fun n => { n with queue := n.queue.drop (i + 1) },
     .answer .ok (byteList [i + 1, (n.queue.drop (i + 1)).length]))

/-- R99: grant of an ACK. -/
def execAck (p : Port) (s : State) : Result :=
  .next (s.serve p .ack bodyWord fun t _ seq => t.serviceAck p seq)

end Sys2Proof.Machine
end

