-- ==== Sys2Proof/Machine/Ports.lean ====
section
/-!
DEFINITION. Agent ports: frames, slots, READ transactions, port resets, ATTACH, DETACH, the unknown request code
(chapter 7; layouts of chapter 11).
-/
namespace Sys2Proof.Machine

/-! ### Frames -/

/-- R123, R180: the checks on the bytes received after the select byte: size, length, CRC. -/
def frameOk (bytes : List Byte) : Bool :=
  decide (bytes.length ≤ Config.frameSize) &&
  decide (4 ≤ bytes.length) && decide ((bytes.headD 0).toNat = bytes.length) &&
  decide (crc8 bytes.dropLast = bytes.getLastD 0)

/-- R179: the request that a well-formed frame carries. -/
def frameRequest (bytes : List Byte) : Request :=
  ⟨bytes.getD 1 0, bytes.getD 2 0, (bytes.drop 3).dropLast⟩

/-- R179: the frame of a request; the encoder beside `frameRequest`. -/
def Request.frame (r : Request) : List Byte :=
  withCrc (byteOf (r.body.length + 4) :: r.tag :: r.code :: r.body)

/-- R179: the answer frame of an answer. -/
def Answer.frame (a : Answer) : List Byte :=
  withCrc (byteOf (a.body.length + 5) :: a.tag :: a.code :: byteOf a.result.code :: a.body)

/-- R130, R179: the status header of port p as it stands. -/
def State.statusHeader (s : State) (p : Port) : List Byte :=
  let ps := s.ports.get p
  withCrc (byteList [s.phase.code, ps.attached.toNat, ps.slotsInUse, ps.answersReady, ps.notices.queue.length,
    ps.notices.undelivered, ps.notices.lost.toNat, ps.overrun, ps.badFrame, holderCode s.lease.holder,
    if s.lease.holder = some p then s.lease.remaining else 0])

/-- R128: the bytes sent on SDO in a READ transaction: header, fixed answer, fill bytes (0x00, R179). -/
def ReadTransaction.sdo (t : ReadTransaction) (n : Nat) : List Byte :=
  padTo n (t.header ++ (match t.answer with | some x => x.2.frame | none => []))

/-- R117, R128: port p takes a new transaction: neither reset holds it and its select is not in use by a READ. -/
def State.portTakes (s : State) (p : Port) : Bool := !s.portHeld p && (s.ports.get p).reading.isNone

/-- R132: the bad-frame count of port p rises by one. -/
def State.countBadFrame (s : State) (p : Port) : State :=
  s.modifyPort p fun ps => { ps with badFrame := satInc255 ps.badFrame }

/-- R124: a well-formed frame arrives. -/
def State.arrive (s : State) (p : Port) (r : Request) : State :=
  match (s.ports.get p).slots.lowestFree with
  | none => s.modifyPort p fun ps => { ps with overrun := satInc255 ps.overrun }
  | some k =>
    if s.phase = .starting then s.modifyPort p fun ps => ps.answerSlot k ⟨r.tag, r.code, .notReady, []⟩
    else
      State.refreshLease
        (s.modifyPort p fun ps => { ps with slots := ps.slots.set k (.queued r), arrival := ps.arrival ++ [k] }) p

/-- R118, R123, R124: the end of a WRITE transaction. One with no byte after the select byte does nothing. -/
def execFrameArrival (p : Port) (bytes : List Byte) (s : State) : Result :=
  .next <|
    if s.portTakes p && !bytes.isEmpty then
      if frameOk bytes then s.arrive p (frameRequest bytes) else s.countBadFrame p
    else s

/-- R118, R132: the end of a transaction that was neither WRITE nor READ. -/
def execInvalidSelectEnd (p : Port) (s : State) : Result :=
  .next (if s.portTakes p then s.countBadFrame p else s)

/-- R127: the answer at the head of the answer order. -/
def PortState.headAnswer (ps : PortState) : Option (SlotNo × Answer) :=
  match ps.answers with
  | [] => none
  | k :: _ =>
    match ps.slots.get k with
    | .answered a => some (k, a)
    | .free | .queued _ | .inService _ | .waiting _ => none

/-- R128: what a READ transaction fixes when its select byte is taken. -/
def State.readTransaction (s : State) (p : Port) : ReadTransaction := ⟨s.statusHeader p, (s.ports.get p).headAnswer⟩

/-- R128: the READ select byte is taken: header and answer are fixed for the transaction. -/
def execReadSelect (p : Port) (s : State) : Result :=
  .next <|
    if s.portTakes p then
      s.modifyPort p fun ps => { ps with reading := some (s.readTransaction p) }
    else s

/-- R129: the answer is consumed: its slot becomes FREE and leaves the answer order. -/
def PortState.consume (ps : PortState) (k : SlotNo) : PortState :=
  { ps with slots := ps.slots.set k .free, answers := ps.answers.filter fun x => decide (x ≠ k) }

/-- R129: SEL_N deasserts at the end of a READ transaction after `clocked` bytes beyond the select byte. -/
def PortState.endRead (clocked : Nat) (ps : PortState) : PortState :=
  match ps.reading with
  | none => ps
  | some t =>
    let done := { ps with reading := none }
    match t.answer with
    | none => done
    | some (k, a) =>
      if t.header.length + a.frame.length ≤ clocked ∧ ps.slots.get k = .answered a then done.consume k else done

/-- R129: the end of a READ transaction. -/
def execReadEnd (p : Port) (clocked : Nat) (s : State) : Result :=
  .next (s.modifyPort p (PortState.endRead clocked))

/-! ### Port reset -/

/-- R122, R133: a slot under a port reset; a DETACH's own slot is spared. -/
def Slots.resetExcept (v : Slots) (spared : Option SlotNo) : Slots :=
  let keep := fun k => if spared = some k then v.get k else Slot.free
  ⟨keep .a, keep .b, keep .c, keep .d⟩

/-- R119, R102, R133 steps 1 to 5: the port's own part of a port reset. -/
def PortState.resetExcept (ps : PortState) (spared : Option SlotNo) : PortState :=
  { ps with
    attached := false, slots := ps.slots.resetExcept spared, arrival := [], answers := [], overrun := 0,
    badFrame := 0, notices := .empty }

/-- R133, R122: a port reset: the port's part, its SAVEs leave the waiting list (R142), and the lease ends if the port
holds it (R114). -/
def State.resetPort (s : State) (p : Port) (spared : Option SlotNo) : State :=
  let t := s.modifyPort p fun ps => ps.resetExcept spared
  let u := { t with snap := { t.snap with waiting := t.snap.waiting.filter fun w => decide (w.port ≠ p) } }
  if u.lease.holder = some p then u.endLease .portReset else u

/-- R133: PRST_N of port p asserts; a transaction in progress is abandoned (R117). -/
def execPortReset (p : Port) (s : State) : Result :=
  let t := s.modifyPort p fun ps => { ps with reading := none }
  .next (State.resetPort { t with pins := { t.pins with prstN := t.pins.prstN.set p true } } p none)

/-- R133: PRST_N of port p deasserts, which starts nothing. -/
def execPrstDeassert (p : Port) (s : State) : Result :=
  .next { s with pins := { s.pins with prstN := s.pins.prstN.set p false } }

/-! ### ATTACH, DETACH, unknown request codes -/

/-- R121: the service of ATTACH. -/
def State.serviceAttach (p : Port) (s : State) : State × Reply :=
  (s.modifyPort p fun ps => { ps with attached := true },
   .answer .ok (leBytes 2 Config.partIdentity ++ leBytes 2 Config.formatVersion ++
     [byteOf (outcomeCode s.startup.outcome)] ++ leBytes 4 s.snap.newestGen ++
     [byteOf s.phase.code, flagByte (s.ports.get p).attached]))

/-- R121: grant of an ATTACH. -/
def execAttach (p : Port) (s : State) : Result :=
  .next (s.serve p .attach bodyNone fun t _ _ => t.serviceAttach p)

/-- R122: grant of a DETACH: the port reset that spares the DETACH's own slot. -/
def execDetach (p : Port) (s : State) : Result :=
  .next (s.serve p .detach bodyNone fun t k _ => (t.resetPort p (some k), .code .ok))

/-- R13, R120, R123: grant of a frame whose request code is unknown. -/
def execUnknownRequestCode (p : Port) (s : State) : Result :=
  .next (s.grantRequest p none fun t _ _ =>
    (t, .code (if (t.ports.get p).attached then .badRequest else .notAttached)))

/-! ### Whole transactions (R117, R118, R179) -/

/-- R118, R179: the commands that a whole transaction on port p amounts to, from the bytes the part took on SDI: the
select byte 0xA5 is WRITE, 0x5A is READ, any other is invalid; no whole select byte is no transaction. -/
def transactionCommands (p : Port) : List Byte → List Instr
  | [] => []
  | sel :: bytes =>
    if sel = 0xA5 then [.frameArrival p bytes]
    else if sel = 0x5A then [.readSelect p, .readEnd p bytes.length]
    else [.invalidSelectEnd p]

/-- R117: the same from the bits sampled on SDI. -/
def transactionOfBits (p : Port) (bits : List Bool) : List Instr := transactionCommands p (bytesOfBits bits)

/-- R117: the same from the levels of SCK and SDI at successive moments: SCK idles low, and SDI is sampled as it rises. -/
def transactionOfLevels (p : Port) (levels : List (Bool × Bool)) : List Instr :=
  transactionOfBits p (risingSamples false levels)

/-! ### SDO (R117, R118, R128) -/

/-- R118, R128: the n bytes that follow the select byte on SDO: in a READ what the transaction has fixed; in a WRITE and in
an invalid transaction fill bytes (0x00, R179). -/
def State.sdoAfterSelect (s : State) (p : Port) (sel : Byte) (n : Nat) : List Byte :=
  if sel = 0x5A then ((s.ports.get p).reading.getD (s.readTransaction p)).sdo n else zeros n

/-- R117, R118: the first `count` bits that port p drives on SDO, most significant first, in a transaction in which these bits
have been taken from SDI so far. The byte driven while the select byte is coming in is a free value (log entry 24). -/
def State.sdoStream (s : State) (p : Port) (sdi : List Bool) (count : Nat) : List Bool :=
  let following :=
    match bytesOfBits sdi with
    | [] => []
    | sel :: _ => s.sdoAfterSelect p sel (count / 8)
  ((Config.sdoWhileSelecting s.freeIndex :: following).flatMap bitsOfByte).take count

/-- R117, R118: the bits of SDO in a whole transaction with these bits on SDI, one for each clock of SCK. -/
def State.sdoBits (s : State) (p : Port) (sdi : List Bool) : List Bool := s.sdoStream p sdi sdi.length

/-- R117: SDO of port p at one moment, none where it is released: outside a transaction and while PRST_N or RESET_N is
asserted. Within a transaction it is driven: `levels` are those of SCK and SDI from the assertion of SEL_N up to this
moment, and SDO carries the first bit from the start and the next one from each falling edge of SCK on. -/
def State.sdo (s : State) (p : Port) (levels : Option (List (Bool × Bool))) : Option Bool :=
  if s.portHeld p then none
  else
    match levels with
    | none => none
    | some ls =>
      let falls := fallingEdges false (ls.map Prod.fst)
      (s.sdoStream p (risingSamples false ls) (falls + 1))[falls]?

end Sys2Proof.Machine
end

