-- ==== Sys2Proof/Machine/Verdicts.lean ====
section
/-!
DEFINITION. CLEAR and OVERRIDE (R52 to R54).
-/
namespace Sys2Proof.Machine

/-- R52: a HELD entry is cleared and evaluated once. The evaluation finds no transition where the verdict is one that the part
itself has made; for a loaded HELD entry with a score at or below its trip level R52 and R59 say so too, while the machine
of R48 moves GOOD to TRIPPED: the model's choice is what the machine finds (log entry 14). -/
def Entry.clear (e : Entry) : Entry := Entry.evaluate false { e with computed := .good }

/-- R52: the body of an OK answer to CLEAR. -/
def Entry.clearBody (e : Entry) : List Byte := byteList [e.id, e.computed.code, e.published.code]

/-- R52: the service of CLEAR after the checks at grant. -/
def State.serviceClear (id : Nat) (s : State) : State × Reply :=
  match findEntry s.table id with
  | none => (s, .code .noSuchIndicator)
  | some e =>
    match e.computed with
    | .held => (((s.replaceEntry e e.clear).addChanges 1).refreshLines, .answer .ok e.clear.clearBody)
    | .tripped => (s, .answer .conditionPresent (byteList [e.score, releaseLevel e.trip e.hyst]))
    | .good | .settling => (s, .answer .ok e.clearBody)

/-- R52: grant of a CLEAR. -/
def execClear (p : Port) (s : State) : Result :=
  .next (s.serve p .clear bodyByte fun t _ id => t.serviceClear id)

/-- R54: an entry with another override. -/
def Entry.setOverride (o : Override) (e : Entry) : Entry := { e with override := o }

/-- R54: the body of an OK answer to OVERRIDE. -/
def Entry.overrideBody (e : Entry) : List Byte :=
  byteList [e.id, e.override.code, e.computed.code, e.published.code]

/-- R54: the service of OVERRIDE after the checks at grant. -/
def State.serviceOverride (id value : Nat) (s : State) : State × Reply :=
  match findEntry s.table id, overrideOf value with
  | none, _ => (s, .code .noSuchIndicator)
  | some _, none => (s, .code .outOfRange)
  | some e, some o =>
    ((s.replaceEntry e (e.setOverride o)).refreshLines, .answer .ok (e.setOverride o).overrideBody)

/-- R54: grant of an OVERRIDE. -/
def execOverride (p : Port) (s : State) : Result :=
  .next (s.serve p .override bodyTwoBytes fun t _ x => t.serviceOverride x.1 x.2)

end Sys2Proof.Machine
end

