-- ==== Sys2Proof/Machine/Dispatch.lean ====
section
/-!
DEFINITION. The meaning of each command: one arm for each row of spec/opcode_table.json.
-/
namespace Sys2Proof.Machine

def exec (i : Instr) (s : State) : Host.Outcome State Fault Refusal :=
  match i with
  | .attach p => Sys2Proof.Machine.execAttach p s
  | .detach p => Sys2Proof.Machine.execDetach p s
  | .define p => Sys2Proof.Machine.execDefine p s
  | .amend p => Sys2Proof.Machine.execAmend p s
  | .retire p => Sys2Proof.Machine.execRetire p s
  | .renew p => Sys2Proof.Machine.execRenew p s
  | .describe p => Sys2Proof.Machine.execDescribe p s
  | .list p => Sys2Proof.Machine.execList p s
  | .clear p => Sys2Proof.Machine.execClear p s
  | .override p => Sys2Proof.Machine.execOverride p s
  | .report p => Sys2Proof.Machine.execReport p s
  | .watch p => Sys2Proof.Machine.execWatch p s
  | .unwatch p => Sys2Proof.Machine.execUnwatch p s
  | .fetch p => Sys2Proof.Machine.execFetch p s
  | .ack p => Sys2Proof.Machine.execAck p s
  | .claim p => Sys2Proof.Machine.execClaim p s
  | .release p => Sys2Proof.Machine.execRelease p s
  | .save p => Sys2Proof.Machine.execSave p s
  | .settings p => Sys2Proof.Machine.execSettings p s
  | .unknownRequestCode p => Sys2Proof.Machine.execUnknownRequestCode p s
  | .captureJob => Sys2Proof.Machine.execCaptureJob s
  | .accrualJob => Sys2Proof.Machine.execAccrualJob s
  | .secondTick run => Sys2Proof.Machine.execSecondTick run s
  | .leaseUnitComplete => Sys2Proof.Machine.execLeaseUnitComplete s
  | .leaseExpiry => Sys2Proof.Machine.execLeaseExpiry s
  | .autosaveExpiry => Sys2Proof.Machine.execAutosaveExpiry s
  | .pfwAssert => Sys2Proof.Machine.execPfwAssert s
  | .pfwDeassert => Sys2Proof.Machine.execPfwDeassert s
  | .portReset p => Sys2Proof.Machine.execPortReset p s
  | .prstDeassert p => Sys2Proof.Machine.execPrstDeassert p s
  | .deviceReset => Sys2Proof.Machine.execDeviceReset s
  | .resetDeassert => Sys2Proof.Machine.execResetDeassert s
  | .frameArrival p bytes => Sys2Proof.Machine.execFrameArrival p bytes s
  | .readSelect p => Sys2Proof.Machine.execReadSelect p s
  | .readEnd p clocked => Sys2Proof.Machine.execReadEnd p clocked s
  | .invalidSelectEnd p => Sys2Proof.Machine.execInvalidSelectEnd p s
  | .statusRead status => Sys2Proof.Machine.execStatusRead status s
  | .writeEnable => Sys2Proof.Machine.execWriteEnable s
  | .sectorEraseTransaction => Sys2Proof.Machine.execSectorEraseTransaction s
  | .pageProgramTransaction => Sys2Proof.Machine.execPageProgramTransaction s
  | .pageRead data => Sys2Proof.Machine.execPageRead data s
  | .readyWaitTimeout => Sys2Proof.Machine.execReadyWaitTimeout s
  | .busyWaitTimeout => Sys2Proof.Machine.execBusyWaitTimeout s

end Sys2Proof.Machine
end

