-- ==== Sys2Proof/Safety.lean ====
section
/-!
DEFINITION. What counts as a sound state, block by block, and the words in which the claims speak of a grant.
Every predicate here is an invariant of the step: it says what the rules say of the part between two events.
-/
namespace Sys2Proof.Machine

/-! ### Summary lines -/

/-- R60: outside a job's service the lines match their condition. -/
def LinesFollow (s : State) : Prop := s.urg = urgCondition s.table ∧ s.pln = plnCondition s.table

/-! ### Lease -/

/-- R55, R104, R105: without a holder the lease unit is at rest and every override is NONE; a holder is an attached port
and its remaining time lies in 1..duration, the duration in 1..255; the prescaler has counted one unit at most. -/
def LeaseSound (s : State) : Prop :=
  match s.lease.holder with
  | none => s.lease = .unheld ∧ ∀ e ∈ s.table, e.override = .none
  | some p =>
    (s.ports.get p).attached = true ∧ 1 ≤ s.lease.remaining ∧ s.lease.remaining ≤ s.lease.duration ∧
      s.lease.duration ≤ 255 ∧ ∃ n, s.lease.prescaler = some n ∧ n ≤ Config.leaseUnitPeriods

/-! ### Table -/

/-- R1: at most 64 entries, ids in 1..254, no two alike (the table is kept in ascending order). -/
def TableSound (s : State) : Prop :=
  s.table.length ≤ Config.tableSize ∧ s.table.Pairwise (fun x y => x.id < y.id) ∧
    ∀ e ∈ s.table, 1 ≤ e.id ∧ e.id ≤ 254

/-- R3, R4, R7, R30, R34: the kind data of an entry lies in its ranges; a RATIO entry has depth + 1 records. -/
def KindData.Sound : KindData → Prop
  | .tally b => 1 ≤ b ∧ b ≤ Config.max32
  | .runtime _ b => 1 ≤ b ∧ b ≤ Config.max32
  | .ratio d st =>
    (1 ≤ d.nominal ∧ d.nominal ≤ 1000000) ∧ (1 ≤ d.minExposure ∧ d.minExposure ≤ Config.max32) ∧
      (1 ≤ d.epochSize ∧ d.epochSize ≤ 2147483648) ∧ (1 ≤ d.depth ∧ d.depth ≤ 8) ∧
      st.lifetime ≤ Config.max48 ∧ st.closed.length + st.spares.length = d.depth

/-- R3, R5, R7, R25, R40, R45, R70: the fields of an entry lie in their ranges and agree with its kind and class. -/
structure Entry.Sound (e : Entry) : Prop where
  data : e.data.Sound
  trip : e.trip ≤ 199
  hyst : 1 ≤ e.hyst ∧ e.hyst ≤ 50
  label : labelOk e.label = true
  raw : e.rawTotal ≤ Config.max48
  score : 1 ≤ e.score ∧ e.score ≤ (if e.kind = .ratio then 200 else 100)
  unsettled : e.unsettled = true → e.score = 100
  worst : 1 ≤ e.worst ∧ e.worst ≤ 100 ∧ e.worst ≤ e.score
  settling : e.computed = .settling ↔ e.unsettled = true
  held : e.computed = .held → e.cls = .urgent
  tags : e.tags.length ≤ Config.tagSize ∧ e.tags.Nodup ∧ ∀ t ∈ e.tags, 1 ≤ t ∧ t ≤ Config.max32
  runtimeTags : e.kind = .runtime → e.tags = []

/-- Every entry of the table is sound. -/
def EntriesSound (s : State) : Prop := ∀ e ∈ s.table, e.Sound

/-- R34, R41: 256 records, each held by at most one entry, a free record at zero, counts below 2^32, no error count above its
exposure. -/
def PoolSound (s : State) : Prop :=
  s.pool.length = Config.poolSize ∧ (heldRecords s.table).Nodup ∧ (∀ n ∈ heldRecords s.table, n < Config.poolSize) ∧
    (∀ n, recordFree s.table n = true → recordAt s.pool n = .zero) ∧ ∀ r ∈ s.pool, r.errors ≤ r.exposure ∧
      r.exposure ≤ Config.max32

/-! ### Ports -/

/-- R119, R125 to R127, R135, R142: the slots of a port agree with its arrival order, its answer order and the waiting
list; no slot is IN_SERVICE between events; the counts stay at 255; a detached port has an empty notice unit and no SAVE
waiting. -/
structure PortSound (waiting : List WaitingSave) (p : Port) (ps : PortState) : Prop where
  arrival : ps.arrival.Nodup ∧ ∀ k, k ∈ ps.arrival ↔ ∃ r, ps.slots.get k = .queued r
  answers : ps.answers.Nodup ∧ ∀ k, k ∈ ps.answers ↔ ∃ a, ps.slots.get k = .answered a
  service : ∀ k r, ps.slots.get k ≠ .inService r
  waiting : ∀ k, (∃ b, (⟨p, k, b⟩ : WaitingSave) ∈ waiting) ↔ ∃ r, ps.slots.get k = .waiting r
  counts : ps.overrun ≤ 255 ∧ ps.badFrame ≤ 255
  detached : ps.attached = false → ps.notices = .empty ∧ ∀ k r, ps.slots.get k ≠ .waiting r

/-- Every port is sound, and no SAVE stands twice on the waiting list. -/
def PortsSound (s : State) : Prop :=
  (∀ p, PortSound s.snap.waiting p (s.ports.get p)) ∧ (s.snap.waiting.map fun w => (w.port, w.slot)).Nodup

/-! ### Notices -/

/-- R91: the id of an undelivered VERDICT or RETIRED notice. -/
def Notice.openId (n : Notice) : Option Nat :=
  if n.delivered then none
  else
    match n.body with
    | .verdict id _ _ _ _ => some id
    | .retired id _ _ => some id
    | .system _ => none

/-- R84, R90, R91: at most 16 notices with consecutive sequences ending at the counter, delivered ones ahead of
undelivered ones, at most one undelivered VERDICT or RETIRED notice per id; at most 32 ids watched, none twice. -/
structure NoticeUnit.Sound (n : NoticeUnit) : Prop where
  length : n.queue.length ≤ Config.queueSize
  counter : n.seq < 65536
  sequences : n.queue.map Notice.seq =
    (List.range n.queue.length).map fun i => (n.seq + 65536 - n.queue.length + 1 + i) % 65536
  delivered : n.queue.Pairwise fun x y => y.delivered = true → x.delivered = true
  once : n.queue.Pairwise fun x y => x.openId = none ∨ x.openId ≠ y.openId
  watch : n.watch.length ≤ Config.watchSize ∧ n.watch.Pairwise (· < ·)

/-- Every port's notice unit is sound. -/
def NoticesSound (s : State) : Prop := ∀ p, (s.ports.get p).notices.Sound

/-! ### Device phase -/

/-- R2, R136, R156, R175: while STARTING the table is empty and no port is attached; afterwards the phase follows PFW_N and
a start-up outcome is held. While RESET_N is asserted the phase is STARTING (R169). The start-up step is DONE exactly when
start-up has ended (R176). -/
def PhaseSound (s : State) : Prop :=
  (s.pins.resetN = true → s.phase = .starting) ∧
  (s.phase = .starting → s.table = [] ∧ ∀ p, (s.ports.get p).attached = false) ∧
  (s.phase ≠ .starting → (s.phase = .frozen ↔ s.pins.pfwN = true) ∧ s.startup.outcome.isSome = true) ∧
  (s.startup.step = .done ↔ s.phase ≠ .starting)

/-! ### Snapshot unit and memory link -/

/-- Whether an operation writes to the flash. -/
def FlashOp.writes : FlashOp → Bool
  | .erase _ | .program _ => true
  | .read _ => false

/-- R158, R161: the sector or page of an operation. -/
def FlashOp.inRange : FlashOp → Prop
  | .erase k => k ≤ 3
  | .program n => n ≤ 32
  | .read n => n ≤ 32

/-- R161: an operation in hand belongs to the client whose sequence is under way; the snapshot unit's operations lie in
the target bank, which is not the bank of the newest completed image (R146). -/
def LinkOp.Sound (s : State) (o : LinkOp) : Prop :=
  o.op.inRange ∧
  match o.client with
  | .snapshot =>
    s.phase ≠ .starting ∧ s.snap.phase = (if o.op.writes then .writing else .verifying) ∧ o.bank = s.snap.target ∧
      s.snap.newestBank ≠ some o.bank ∧ s.snap.buffer.isSome = true
  | .startup => s.phase = .starting ∧ s.pins.resetN = false ∧ o.op.writes = false ∧ s.startup.step ≠ .done

/-- R140, R151, R160, R161: the link is IDLE exactly while it has no operation; its timer runs exactly in the waits; only
an erase or program is waited for in BUSY_WAIT; a snapshot being written or verified has its operation in hand; a pending
flag or a requested capture stands only with changes to capture; throughout STARTING the snapshot unit holds the values of
a device reset, so its timer is stopped and no change is counted (R138). -/
structure SnapshotSound (s : State) : Prop where
  idle : s.link.op = none ↔ s.link.phase = .idle
  timer : s.link.timer.isSome = true ↔ s.link.phase = .readyWait ∨ s.link.phase = .busyWait
  busy : ∀ o, s.link.op = some o → s.link.phase = .busyWait → o.op.writes = true
  op : ∀ o, s.link.op = some o → o.Sound s
  flight : s.snap.phase = .writing ∨ s.snap.phase = .verifying → s.link.op.isSome = true
  again : s.snap.again = true →
    (s.snap.phase = .writing ∨ s.snap.phase = .verifying) ∧ 0 < s.snap.changeCount
  requested : s.snap.phase = .capturePending → 0 < s.snap.changeCount
  starting : s.phase = .starting → s.snap = .reset
  reset : s.pins.resetN = true → s.phase = .starting ∧ s.link.op = none

/-! ### Counts and timers -/

/-- R77, R138, R139, R143, R162 to R164, R166: the owed and pending seconds, the change count, the captured amount, the
newest completed generation and the interval lie in their ranges, and no timer has counted past its end. While STARTING
no second is owed or pending and the accrual job is no candidate (R77, R82). -/
structure CountsSound (s : State) : Prop where
  owed : s.accrual.owedRun ≤ 65535 ∧ s.accrual.owedPowered ≤ 65535
  pending : s.accrual.pendRun ≤ 65535 ∧ s.accrual.pendPowered ≤ 65535
  starting : s.phase = .starting → s.accrual = { Accrual.reset with secondTimer := s.accrual.secondTimer }
  second : s.accrual.secondTimer ≤ Config.secondPeriods
  changes : s.snap.changeCount ≤ Config.max32 ∧ s.snap.captured ≤ Config.max32
  generation : s.snap.newestGen ≤ Config.max32
  interval : s.snap.interval ≤ 1440
  autosave : ∀ left, s.snap.autosave = some left →
    1 ≤ s.snap.interval ∧ left ≤ s.snap.interval * 60 * Config.secondPeriods
  timeout : ∀ t, s.link.timer = some t →
    t.count ≤ t.limit ∧ (t.limit = Config.longLimit ∨ t.limit = Config.programLimit)

/-! ### Watch lists and the table together -/

/-- R24, R84, R85, R94: every watched id has an entry. -/
def WatchesDefined (s : State) : Prop :=
  ∀ p, ∀ id ∈ (s.ports.get p).notices.watch, (findEntry s.table id).isSome = true

/-- The part between two events, as the rules leave it. -/
structure Sound (s : State) : Prop where
  lines : LinesFollow s
  lease : LeaseSound s
  table : TableSound s
  entries : EntriesSound s
  pool : PoolSound s
  ports : PortsSound s
  notices : NoticesSound s
  phase : PhaseSound s
  snapshot : SnapshotSound s
  counts : CountsSound s
  watches : WatchesDefined s

/-! ### Words for claims about a port's wires -/

/-- R117: the levels of SCK and SDI in successive SCK periods, low half before high half; a pair holds the levels of SDI in
the two halves of one period. -/
def sckLevels (sdi : List (Bool × Bool)) : List (Bool × Bool) := sdi.flatMap fun x => [(false, x.1), (true, x.2)]

/-! ### Words for claims about a grant -/

/-- R9: the arbiter's choice is the request r in slot k of port p, whose code selects c. -/
def Granted (s : State) (p : Port) (c : RequestCode) (k : SlotNo) (r : Request) : Prop :=
  s.arbiterChoice = some (.request p k r) ∧ requestOf r.code = some c

/-- The notices of one port after a change of an entry has been handed on (R58, R92). -/
def noticesAfter (before after : Entry) (ps : PortState) : NoticeUnit :=
  if before.published ≠ after.published ∧ ps.attached = true then
    ps.notices.onVerdict ⟨after.id, before.published, after.published, after.score⟩
  else ps.notices

/-- A port after a grant answered in its slot: the answer stands in the slot and at the end of the answer order; of every
port the notices may have changed, and nothing else. -/
def portAfterGrant (s : State) (p : Port) (k : SlotNo) (a : Answer) (notices : Port → NoticeUnit) (q : Port) : PortState :=
  if q = p then
    { s.ports.get p with
      arrival := (s.ports.get p).arrival.tail, slots := (s.ports.get p).slots.set k (.answered a),
      answers := (s.ports.get p).answers ++ [k], notices := notices p }
  else { s.ports.get q with notices := notices q }

/-- R126: the answer to a request: its tag and code echoed, with a result and a body. -/
def Request.reply (r : Request) (result : ResultCode) (body : List Byte) : Answer := ⟨r.tag, r.code, result, body⟩

/-- The frame of every grant that is answered in its slot: the ports are as `portAfterGrant` says, p is the last-served
port, and the phase, the accrual block, the link, the start-up logic, the pins and the queue are as they were. -/
structure GrantFrame (s t : State) (p : Port) (k : SlotNo) (a : Answer) (notices : Port → NoticeUnit) : Prop where
  ports : ∀ q, t.ports.get q = portAfterGrant s p k a notices q
  lastServed : t.lastServed = p
  phase : t.phase = s.phase
  accrual : t.accrual = s.accrual
  link : t.link = s.link
  startup : t.startup = s.startup
  pins : t.pins = s.pins
  queue : t.pending = s.pending ∧ t.freeIndex = s.freeIndex

/-- A grant that is answered and changes nothing else: no notice, no entry, no record, no line, neither lease nor snapshot
unit. -/
structure AnswersOnly (s t : State) (p : Port) (k : SlotNo) (a : Answer) : Prop where
  frame : GrantFrame s t p k a fun q => (s.ports.get q).notices
  table : t.table = s.table
  pool : t.pool = s.pool
  lines : t.urg = s.urg ∧ t.pln = s.pln
  lease : t.lease = s.lease
  snap : t.snap = s.snap

/-- R20, R94: the notices of one port after a retirement event. -/
def noticesAfterRetire (id score : Nat) (ps : PortState) : NoticeUnit :=
  NoticeUnit.unwatch id (if ps.attached then ps.notices.retireQueue id score else ps.notices)

/-- R56, R113: the notices of one port after the end of the lease of `former`. -/
def noticesAfterLeaseEnd (table : List Entry) (former : Port) (reason : LeaseEndReason) (ps : PortState) : NoticeUnit :=
  if ps.attached then
    ((dropEvents table).foldl (fun n ev => n.onVerdict ev) ps.notices).append (.system (.leaseEnded former reason))
  else ps.notices

/-- R95: the notices of one port after a system event. -/
def noticesAfterSystem (ev : SystemEvent) (ps : PortState) : NoticeUnit :=
  if ps.attached then ps.notices.append (.system ev) else ps.notices

/-- R13: whether a body is well formed for a request code (R183). -/
def bodyDecodes (body : List Byte) : RequestCode → Bool
  | .attach | .detach | .fetch | .release | .save => (bodyNone body).isSome
  | .define | .amend => (bodyFields body).isSome
  | .retire | .renew | .describe | .list | .clear | .watch | .unwatch | .claim => (bodyByte body).isSome
  | .override => (bodyTwoBytes body).isSome
  | .report => (bodyItems body).isSome
  | .ack | .settings => (bodyWord body).isSome

/-- The row of the table that grants a request (R14). -/
def grantCommand (p : Port) : RequestCode → Instr
  | .attach => .attach p
  | .detach => .detach p
  | .define => .define p
  | .amend => .amend p
  | .retire => .retire p
  | .renew => .renew p
  | .describe => .describe p
  | .list => .list p
  | .clear => .clear p
  | .override => .override p
  | .report => .report p
  | .watch => .watch p
  | .unwatch => .unwatch p
  | .fetch => .fetch p
  | .ack => .ack p
  | .claim => .claim p
  | .release => .release p
  | .save => .save p
  | .settings => .settings p

/-- R14: the requests held to the lease. -/
def heldRequests : List RequestCode := [.define, .amend, .retire, .renew, .clear, .override, .settings]

/-- R14: the requests refused FROZEN. -/
def frozenRequests : List RequestCode := [.define, .amend, .retire, .renew, .clear, .report, .settings]

/-- R13: the request is granted and passes the attached, the lease and the frozen check; its body is a matter of its own. -/
structure Admitted (s : State) (p : Port) (c : RequestCode) (k : SlotNo) (r : Request) : Prop where
  granted : Granted s p c k r
  attached : c ≠ .attach → (s.ports.get p).attached = true
  lease : c ∈ heldRequests → s.lease.holder = some p
  frozen : c ∈ frozenRequests → s.phase ≠ .frozen

/-- A grant that is answered and changes one entry of the table: `after` stands under its id, every other id has the entry
it had, a change of the published verdict has been handed on, the lines match the table, the change count has risen by
`changes`, and neither the lease nor anything else of the snapshot unit has changed. The pool is a matter of its own. -/
structure ReplacesEntry (s t : State) (p : Port) (k : SlotNo) (a : Answer) (before after : Entry) (changes : Nat) :
    Prop where
  frame : GrantFrame s t p k a fun q => noticesAfter before after (s.ports.get q)
  entry : findEntry t.table after.id = some after
  others : ∀ id, id ≠ after.id → findEntry t.table id = findEntry s.table id
  length : t.table.length = s.table.length
  lines : LinesFollow t
  lease : t.lease = s.lease
  snap : t.snap =
    if changes = 0 then s.snap else { s.snap with changeCount := min (s.snap.changeCount + changes) 4294967295 }

/-- R56, R113: what the end of the lease of `former` leaves of the lease, the overrides and the lines. -/
structure LeaseEnded (s t : State) : Prop where
  lease : t.lease.holder = none ∧ t.lease.duration = 0 ∧ t.lease.remaining = 0 ∧ t.lease.prescaler = none
  table : t.table = s.table.map fun e => { e with override := .none }
  lines : LinesFollow t
  rest : t.phase = s.phase ∧ t.pool = s.pool ∧ t.accrual = s.accrual ∧ t.link = s.link ∧ t.startup = s.startup ∧
    t.pending = s.pending ∧ t.freeIndex = s.freeIndex

/-- R133, R122: what a port reset of p does to everything but p's own state: the SAVEs of p leave the waiting list, and the
lease ends with reason PORT_RESET when p holds it. -/
structure PortResetAround (s t : State) (p : Port) : Prop where
  snap : t.snap = { s.snap with waiting := s.snap.waiting.filter fun w => decide (w.port ≠ p) }
  holder : s.lease.holder = some p →
    LeaseEnded s t ∧ ∀ q, q ≠ p → t.ports.get q =
      { s.ports.get q with notices := noticesAfterLeaseEnd s.table p .portReset (s.ports.get q) }
  other : s.lease.holder ≠ some p →
    t.lease = s.lease ∧ t.table = s.table ∧ t.urg = s.urg ∧ t.pln = s.pln ∧ t.phase = s.phase ∧ t.pool = s.pool ∧
      t.accrual = s.accrual ∧ t.link = s.link ∧ t.startup = s.startup ∧ t.pending = s.pending ∧
      t.freeIndex = s.freeIndex ∧ ∀ q, q ≠ p → t.ports.get q = s.ports.get q

/-- R149, R150, R142: the end of a snapshot: the SAVEs bound to it are answered in list order, those bound to the next
snapshot are bound to the current one, the autosave timer starts again, the pending flag leads to the next capture, and
the link is IDLE. The change count and the newest completed image are matters of their own. -/
structure SnapshotEnded (s t : State) (result : ResultCode) (body : List Byte) (notices : PortState → NoticeUnit) :
    Prop where
  ports : ∀ p, t.ports.get p =
    { s.ports.get p with
      slots := (t.ports.get p).slots
      answers := (s.ports.get p).answers ++
        (s.snap.waiting.filter fun w => decide (w.binding = .current) && decide (w.port = p)).map WaitingSave.slot
      notices := notices (s.ports.get p) }
  answered : ∀ p k r, (s.ports.get p).slots.get k = .waiting r → ⟨p, k, .current⟩ ∈ s.snap.waiting →
    (t.ports.get p).slots.get k = .answered ⟨r.tag, r.code, result, body⟩
  kept : ∀ p k, ⟨p, k, .current⟩ ∉ s.snap.waiting → (t.ports.get p).slots.get k = (s.ports.get p).slots.get k
  waiting : t.snap.waiting =
    (s.snap.waiting.filter fun w => decide (w.binding = .next)).map fun w => ⟨w.port, w.slot, .current⟩
  phase : t.snap.phase = (if s.snap.again then .capturePending else .idle) ∧ t.snap.again = false
  autosave : t.snap.autosave = (if s.snap.interval = 0 then none else some (s.snap.interval * 60 * 32768)) ∧
    t.snap.interval = s.snap.interval
  link : t.link.phase = .idle ∧ t.link.op = none ∧ t.link.timer = none
  rest : t = { s with ports := t.ports, snap := t.snap, link := t.link }

/-- R176: the end of start-up with a table, a pool, the bank proved, its generation and interval, and the outcome. -/
structure StartUpEnds (s t : State) (table : List Entry) (pool : List EpochRecord) (proved : Option Bank)
    (generation interval : Nat) (outcome : StartOutcome) : Prop where
  table : t.table = table ∧ t.pool = pool
  lines : LinesFollow t
  snap : t.snap = { s.snap with
    newestBank := proved, newestGen := generation, interval := interval
    changeCount := (if outcome = .loadedOlder then 1 else 0)
    autosave := (if interval = 0 then none else some (interval * 60 * 32768)) }
  phase : t.phase = if s.pins.pfwN then .frozen else .running
  startup : t.startup.outcome = some outcome ∧ t.startup.step = .done ∧ t.startup.buffer = none ∧
    t.startup.copyA = none ∧ t.startup.copyB = none
  link : t.link.phase = .idle ∧ t.link.op = none ∧ t.link.timer = none
  rest : t = { s with
    table := t.table, pool := t.pool, urg := t.urg, pln := t.pln, snap := t.snap, phase := t.phase, startup := t.startup
    link := t.link }

/-- R172, R173, R175: start-up goes on with a try order: its first bank is put under test, with its header copy in the load
buffer and the running sum at 0, and its page 1 is read; with an empty order start-up ends BLANK. -/
def StartUpTries (s t : State) (order : List Bank) (failedNewer : Bool) (copy : Bank → Option (List Byte)) : Prop :=
  match order with
  | [] => StartUpEnds s t [] (List.replicate 256 ⟨0, 0⟩) none 0 10 .blank
  | bank :: _ =>
    t = { s with startup := t.startup, link := t.link } ∧
      t.startup.step = .body ∧ t.startup.tryOrder = order ∧ t.startup.underTest = some bank ∧
      t.startup.runningSum = 0 ∧ t.startup.buffer = some ⟨(copy bank).getD [], []⟩ ∧
      t.startup.failedNewer = failedNewer ∧
      t.link.phase = .readyWait ∧ t.link.op = some ⟨.read 1, bank, .startup⟩ ∧ t.link.timer = some ⟨0, 13108⟩

end Sys2Proof.Machine
end

