-- ==== Sys2Proof/Certificates/Slice0/Obligations.lean ====
section
/-!
DEFINITION. The statements about the part, from the numbered rules of spec/: what each command does, what it leaves, and
what every step keeps.
-/
open Sys2Proof Sys2Proof.Machine

/-! ### The step, reset, the arbiter -/

/-- 00_scope, Events: the step takes the command at the front of the queue and runs it on the state with the queue's rest. -/
def Obligations.StepRunsTheFrontCommand : Prop :=
  ∀ (c : Instr) (rest : List Instr) (s : State), s.pending = c :: rest → step s = exec c { s with pending := rest }

/-- The model's choice (log entries 5, 7, 8 and 9): with an empty queue one REFCLK period passes while no timer stands at its
end, and every running timer counts it; while some timer does, one event of such a timer enters the queue, whichever it is,
and no timer counts. The ends are those of R76, R105, R143, R162 and R166. While RESET_N is asserted nothing happens. -/
def Obligations.EmptyQueueIsOneRefclkPeriod : Prop :=
  ∀ s : State, s.pending = [] →
    (s.pins.resetN = true → step s = .next s) ∧
    (s.pins.resetN = false →
      (s.accrual.secondTimer < 32768 ∧
          (∀ n, s.lease.holder ≠ none → s.lease.prescaler = some n → n < 3277) ∧ s.snap.autosave ≠ some 0 ∧
          (∀ x, s.link.op ≠ none → s.link.phase = .readyWait ∨ s.link.phase = .busyWait → s.link.timer = some x →
            x.count < x.limit) →
        step s = .next { s with
          accrual := { s.accrual with secondTimer := s.accrual.secondTimer + 1 }
          lease := { s.lease with prescaler := s.lease.prescaler.map fun n => n + 1 }
          snap := { s.snap with autosave := s.snap.autosave.map fun n => n - 1 }
          link := { s.link with timer := s.link.timer.map fun x => ⟨x.count + 1, x.limit⟩ } }) ∧
      ((32768 ≤ s.accrual.secondTimer ∨
          (s.lease.holder ≠ none ∧ ∃ n, s.lease.prescaler = some n ∧ 3277 ≤ n) ∨ s.snap.autosave = some 0 ∨
          (s.link.op ≠ none ∧ (s.link.phase = .readyWait ∨ s.link.phase = .busyWait) ∧
            ∃ x, s.link.timer = some x ∧ x.limit ≤ x.count)) →
        ∃ c, step s = .next { s with pending := [c], freeIndex := s.freeIndex + 1 } ∧
          ((∃ run, c = .secondTick run) ∧ 32768 ≤ s.accrual.secondTimer ∨
           (c = .leaseUnitComplete ∧ 1 < s.lease.remaining ∨ c = .leaseExpiry ∧ s.lease.remaining ≤ 1) ∧
             s.lease.holder ≠ none ∧ (∃ n, s.lease.prescaler = some n ∧ 3277 ≤ n) ∨
           c = .autosaveExpiry ∧ s.snap.autosave = some 0 ∨
           (c = .readyWaitTimeout ∧ s.link.phase = .readyWait ∨ c = .busyWaitTimeout ∧ s.link.phase = .busyWait) ∧
             s.link.op ≠ none ∧ ∃ x, s.link.timer = some x ∧ x.limit ≤ x.count)))

/-- 00_scope, Events: every event is taken whole. That every command answers a next state in every state, also one whose
event cannot happen there, is the model's choice (log entry 3), and so is that a device reset leaves the commands that wait
behind it, as every other command does (log entry 17). -/
def Obligations.EveryCommandAnswersANextState : Prop :=
  ∀ (c : Instr) (s : State), ∃ t, exec c s = .next t ∧ t.pending = s.pending ∧ t.freeIndex = s.freeIndex

/-- R169, with the values of R2, R41, R82, R90, R104, R119, R138 and R160: a device reset gives every block its value; the
deassertion of RESET_N then starts the second timer from zero and hands the first header read to the memory link. That the
levels of PFW_N and PRST_N and the queue stay is the model's choice (log entries 2 and 17). -/
def Obligations.DeviceResetThenFirstHeaderRead : Prop :=
  ∀ s : State,
    (∃ t, exec .deviceReset s = .next t ∧
      t.phase = .starting ∧ t.lastServed = .p3 ∧ t.table = [] ∧ t.pool = List.replicate 256 ⟨0, 0⟩ ∧
      t.urg = false ∧ t.pln = false ∧
      (∀ p, t.atnAsserted p = false ∧ (t.ports.get p).attached = false ∧ (∀ k, (t.ports.get p).slots.get k = .free) ∧
        (t.ports.get p).arrival = [] ∧ (t.ports.get p).answers = [] ∧ (t.ports.get p).overrun = 0 ∧
        (t.ports.get p).badFrame = 0 ∧ (t.ports.get p).reading = none ∧ (t.ports.get p).notices = ⟨[], [], false, 0⟩) ∧
      t.lease = ⟨none, 0, 0, none⟩ ∧
      (t.accrual.candidate = false ∧ t.accrual.secondTimer = 0 ∧ t.accrual.owedRun = 0 ∧ t.accrual.owedPowered = 0 ∧
        t.accrual.pendRun = 0 ∧ t.accrual.pendPowered = 0) ∧
      (t.snap.phase = .idle ∧ t.snap.changeCount = 0 ∧ t.snap.captured = 0 ∧ t.snap.again = false ∧
        t.snap.attempt = .first ∧ t.snap.waiting = [] ∧ t.snap.buffer = none ∧ t.snap.newestBank = none ∧
        t.snap.newestGen = 0 ∧ t.snap.target = .a ∧ t.snap.autosave = none ∧ t.snap.interval = 10) ∧
      (t.link.phase = .idle ∧ t.link.op = none ∧ t.link.timer = none) ∧
      (t.startup.step = .headerA ∧ t.startup.verdictA = none ∧ t.startup.verdictB = none ∧ t.startup.copyA = none ∧
        t.startup.copyB = none ∧ t.startup.tryOrder = [] ∧ t.startup.underTest = none ∧ t.startup.runningSum = 0 ∧
        t.startup.buffer = none ∧ t.startup.failedNewer = false ∧ t.startup.outcome = none) ∧
      t.pins = { s.pins with resetN := true } ∧ t.pending = s.pending) ∧
    (s.pins.resetN = true → ∃ t, exec .resetDeassert s = .next t ∧
      t = { s with pins := { s.pins with resetN := false }, accrual := { s.accrual with secondTimer := 0 },
                   link := t.link } ∧
      t.link.phase = .readyWait ∧ t.link.op = some ⟨.read 0, .a, .startup⟩ ∧ t.link.timer = some ⟨0, 13108⟩)

/-- R9, R12: while STARTING nothing is granted; otherwise the capture job comes first, then the accrual job, then the first
port with a candidate in the cyclic order that follows the last-served port, which a port's grant sets and the internal
jobs and a port reset leave. -/
def Obligations.ArbiterChoosesInOrder : Prop :=
  ∀ s : State,
    (s.phase = .starting → s.arbiterChoice = none) ∧
    (s.phase ≠ .starting → s.snap.phase = .capturePending → s.arbiterChoice = some .capture) ∧
    (s.phase ≠ .starting → s.snap.phase ≠ .capturePending → s.accrual.candidate = true →
      s.arbiterChoice = some .accrual) ∧
    (s.phase ≠ .starting → s.snap.phase ≠ .capturePending → s.accrual.candidate = false →
      (∀ before p after k r,
        (([Port.p0, .p1, .p2, .p3, .p0, .p1, .p2, .p3].drop (portCode s.lastServed + 1)).take 4 = before ++ p :: after) →
        (∀ q ∈ before, (s.ports.get q).oldestQueued = none) → (s.ports.get p).oldestQueued = some (k, r) →
        s.arbiterChoice = some (.request p k r)) ∧
      ((∀ p, (s.ports.get p).oldestQueued = none) → s.arbiterChoice = none)) ∧
    (∀ p c k r, Granted s p c k r → ∃ t, exec (grantCommand p c) s = .next t ∧ t.lastServed = p) ∧
    (∀ c, (c = Instr.captureJob ∨ c = .accrualJob ∨ ∃ p, c = .portReset p) →
      ∃ t, exec c s = .next t ∧ t.lastServed = s.lastServed)

/-- R13, R14: the checks at grant, in their order: attached, decoded, lease, frozen; the first that fails decides the
answer, and nothing but the slot changes. An unknown request code fails the decoded check. -/
def Obligations.ChecksAtGrantDecideInOrder : Prop :=
  (∀ s p c k r, Granted s p c k r →
    (c ≠ .attach → (s.ports.get p).attached = false →
      ∃ t, exec (grantCommand p c) s = .next t ∧ AnswersOnly s t p k (r.reply .notAttached [])) ∧
    ((c = .attach ∨ (s.ports.get p).attached = true) → bodyDecodes r.body c = false →
      ∃ t, exec (grantCommand p c) s = .next t ∧ AnswersOnly s t p k (r.reply .badRequest [])) ∧
    ((s.ports.get p).attached = true → bodyDecodes r.body c = true →
      c ∈ [RequestCode.define, .amend, .retire, .renew, .clear, .override, .settings] → s.lease.holder ≠ some p →
      ∃ t, exec (grantCommand p c) s = .next t ∧
        AnswersOnly s t p k (r.reply .notHolder
          [match s.lease.holder with | none => 0xFF | some q => byteOf (portCode q), byteOf s.lease.remaining])) ∧
    ((s.ports.get p).attached = true → bodyDecodes r.body c = true →
      (c ∈ [RequestCode.define, .amend, .retire, .renew, .clear, .settings] → s.lease.holder = some p) →
      c ∈ [RequestCode.define, .amend, .retire, .renew, .clear, .report, .settings] → s.phase = .frozen →
      ∃ t, exec (grantCommand p c) s = .next t ∧
        AnswersOnly s t p k (r.reply .frozen (if c = .report then [0] else [])))) ∧
  (∀ s p k r, s.arbiterChoice = some (.request p k r) → requestOf r.code = none →
    ∃ t, exec (.unknownRequestCode p) s = .next t ∧
      AnswersOnly s t p k (r.reply (if (s.ports.get p).attached then .badRequest else .notAttached) []))

/-- The model's choice (log entry 3): a grant that is not the arbiter's choice is not taken and changes nothing, be it the
grant of a request with a known code, of one with an unknown code, or of an internal job. -/
def Obligations.UnchosenGrantChangesNothing : Prop :=
  ∀ s : State,
    (∀ p c, (∀ k r, ¬ Granted s p c k r) → exec (grantCommand p c) s = .next s) ∧
    (∀ p, (∀ k r, s.arbiterChoice = some (.request p k r) → requestOf r.code ≠ none) →
      exec (.unknownRequestCode p) s = .next s) ∧
    (s.arbiterChoice ≠ some .capture → exec .captureJob s = .next s) ∧
    (s.arbiterChoice ≠ some .accrual → exec .accrualJob s = .next s)

/-- R121: ATTACH attaches the port, leaves an attached one as it was, and answers OK with the part identity, the format
version, the start-up outcome, the generation, the phase and the attach state before. -/
def Obligations.AttachAnswersThePartIdentity : Prop :=
  ∀ s p k r outcome, Granted s p .attach k r → r.body = [] → s.startup.outcome = some outcome →
    ∃ t a, exec (.attach p) s = .next t ∧
      t = { s with ports := t.ports, lastServed := p } ∧
      a = r.reply .ok (leBytes 2 0x0464 ++ leBytes 2 1 ++
        [match outcome with | .loadedNewer => (1 : Byte) | .loadedOlder => 2 | .blank => 3] ++
        leBytes 4 s.snap.newestGen ++
        [if s.phase = .frozen then (2 : Byte) else 1, if (s.ports.get p).attached then 1 else 0]) ∧
      t.ports.get p = { s.ports.get p with
        attached := true, arrival := (s.ports.get p).arrival.tail, slots := (s.ports.get p).slots.set k (.answered a),
        answers := (s.ports.get p).answers ++ [k] } ∧
      ∀ q, q ≠ p → t.ports.get q = s.ports.get q

/-- R122: DETACH is the port reset of its port that spares the DETACH's own slot, which is then the only answer. -/
def Obligations.DetachResetsItsPort : Prop :=
  ∀ s p k r, Admitted s p .detach k r → r.body = [] →
    ∃ t, exec (.detach p) s = .next t ∧ t.lastServed = p ∧ t.pins = s.pins ∧
      t.ports.get p =
        { attached := false, slots := Slots.set ⟨.free, .free, .free, .free⟩ k (.answered (r.reply .ok [])),
          arrival := [], answers := [k], overrun := 0, badFrame := 0, reading := (s.ports.get p).reading,
          notices := ⟨[], [], false, 0⟩ } ∧
      PortResetAround s t p

/-! ### The indicator table -/

/-- R16, R42: a DEFINE that passes its checks creates the entry with its definition, its state at DEFINE and, for RATIO,
the lowest free records; the machine is evaluated once, so a TALLY or RUNTIME entry with a trip level of 100 or more is
TRIPPED; one table change is counted, the lines follow, and the answer is OK with id, score and published verdict. -/
def Obligations.DefineCreatesTheEntry : Prop :=
  ∀ s p k r id f d, Admitted s p .define k r → bodyFields r.body = some (id, f) → 1 ≤ id → id ≤ 254 →
    definitionOf f = some d → findEntry s.table id = none → s.table.length < 64 →
    d.kind.recordsNeeded ≤ (freeRecords s.table).length →
    ∃ t e, exec (.define p) s = .next t ∧
      GrantFrame s t p k (r.reply .ok [byteOf id, 100, byteOf e.computed.code]) (fun q =>
        if e.computed = .tripped ∧ (s.ports.get q).attached = true then
          (s.ports.get q).notices.onVerdict ⟨id, .good, .tripped, 100⟩
        else (s.ports.get q).notices) ∧
      findEntry t.table id = some e ∧ (∀ i, i ≠ id → findEntry t.table i = findEntry s.table i) ∧
      t.table.length = s.table.length + 1 ∧
      (e.id = id ∧ e.cls = d.cls ∧ e.writers = d.writers ∧ e.trip = d.trip ∧ e.hyst = d.hyst ∧ e.label = d.label) ∧
      (e.rawTotal = 0 ∧ e.saturated = false ∧ e.score = 100 ∧ e.worst = 100 ∧ e.override = .none ∧ e.tags = []) ∧
      (match d.kind with
       | .tally b => e.data = .tally b ∧ e.computed = if 100 ≤ d.trip then .tripped else .good
       | .runtime g b => e.data = .runtime g b ∧ e.computed = if 100 ≤ d.trip then .tripped else .good
       | .ratio rd => e.computed = .settling ∧ ∃ first rest,
           (freeRecords s.table).take (rd.depth + 1) = first :: rest ∧
           e.data = .ratio rd { lifetime := 0, settled := false, closed := [], opened := first, spares := rest }) ∧
      t.pool = s.pool ∧ LinesFollow t ∧ t.lease = s.lease ∧
      t.snap = { s.snap with changeCount := min (s.snap.changeCount + 1) 4294967295 }

/-- R15: the checks of DEFINE in their order, each refusal leaving table and pool as they were; POOL_SHORT carries the
number of free records. -/
def Obligations.DefineIsRefusedInOrder : Prop :=
  ∀ s p k r id f, Admitted s p .define k r → bodyFields r.body = some (id, f) →
    ((id = 0 ∨ 255 ≤ id ∨ definitionOf f = none) →
      ∃ t, exec (.define p) s = .next t ∧ AnswersOnly s t p k (r.reply .outOfRange [])) ∧
    (∀ d, 1 ≤ id → id ≤ 254 → definitionOf f = some d →
      ((findEntry s.table id).isSome = true →
        ∃ t, exec (.define p) s = .next t ∧ AnswersOnly s t p k (r.reply .exists_ [])) ∧
      (findEntry s.table id = none → 64 ≤ s.table.length →
        ∃ t, exec (.define p) s = .next t ∧ AnswersOnly s t p k (r.reply .tableFull [])) ∧
      (∀ rd, findEntry s.table id = none → s.table.length < 64 → d.kind = .ratio rd →
        (freeRecords s.table).length < rd.depth + 1 →
        ∃ t, exec (.define p) s = .next t ∧
          AnswersOnly s t p k (r.reply .poolShort [byteOf (freeRecords s.table).length])))

/-- R3, R4, R5: which fields make a definition, field by field, and the values and defaults it takes from them. -/
def Obligations.DefinitionsTakeFieldsInRange : Prop :=
  ∀ f : Fields,
    ((definitionOf f).isSome = true ↔
      ((f.kind = some 1 ∧ f.gate = none ∧ f.nominal = none ∧ f.minExposure = none ∧ f.epochSize = none ∧ f.depth = none ∧
          ∃ b, f.budget = some b ∧ 1 ≤ b ∧ b ≤ 4294967295) ∨
       (f.kind = some 2 ∧ f.nominal = none ∧ f.minExposure = none ∧ f.epochSize = none ∧ f.depth = none ∧
          (f.gate = some 1 ∨ f.gate = some 2) ∧ ∃ b, f.budget = some b ∧ 1 ≤ b ∧ b ≤ 4294967295) ∨
       (f.kind = some 3 ∧ f.gate = none ∧ f.budget = none ∧
          (∃ n, f.nominal = some n ∧ 1 ≤ n ∧ n ≤ 1000000) ∧ (∃ n, f.minExposure = some n ∧ 1 ≤ n ∧ n ≤ 4294967295) ∧
          (∃ n, f.epochSize = some n ∧ 1 ≤ n ∧ n ≤ 2147483648) ∧ (∃ n, f.depth = some n ∧ 1 ≤ n ∧ n ≤ 8))) ∧
      (f.cls = some 1 ∨ f.cls = some 2) ∧ (∀ n, f.writers = some n → n ≤ 15) ∧
      (∃ n, f.trip = some n ∧ n ≤ 199) ∧ (∀ n, f.hyst = some n → 1 ≤ n ∧ n ≤ 50) ∧
      (∀ l, f.label = some l → l.length ≤ 16 ∧ ∀ c ∈ l, 0x20 ≤ c.toNat ∧ c.toNat ≤ 0x7E)) ∧
    (∀ d, definitionOf f = some d →
      (match d.kind with
       | .tally b => f.kind = some 1 ∧ f.budget = some b
       | .runtime g b => f.kind = some 2 ∧ f.budget = some b ∧ f.gate = some (match g with | .run => 1 | .powered => 2)
       | .ratio rd => f.kind = some 3 ∧ f.nominal = some rd.nominal ∧ f.minExposure = some rd.minExposure ∧
           f.epochSize = some rd.epochSize ∧ f.depth = some rd.depth) ∧
      f.cls = some (match d.cls with | .urgent => 1 | .planned => 2) ∧
      d.writers = writersOf (f.writers.getD 15) ∧ f.trip = some d.trip ∧ d.hyst = f.hyst.getD 5 ∧
      d.label = f.label.getD [])

/-- R18: an AMEND with an amendable field, all of them in range, replaces the present fields; with a budget the score is
recomputed and the worst score follows it down; the machine is evaluated once. That it is evaluated also for label or writers
alone, where R18 and R46 say that nothing moves, is the model's choice (log entry 14); it shows for a loaded verdict that
disagrees with its score. -/
def Obligations.AmendAppliesItsFields : Prop :=
  ∀ s p k r id f e, Admitted s p .amend k r → bodyFields r.body = some (id, f) → findEntry s.table id = some e →
    f.namesFixed = false → f.amendOk e.kind = true → f.carriesAny = true →
    ∃ t e', exec (.amend p) s = .next t ∧
      ReplacesEntry s t p k (r.reply .ok [byteOf id, byteOf e'.score, byteOf e'.published.code]) e e' 1 ∧
      t.pool = s.pool ∧ e'.id = id ∧
      (match e.data with
       | .tally b => e'.data = .tally (f.budget.getD b)
       | .runtime g b => e'.data = .runtime g (f.budget.getD b)
       | .ratio rd st => e'.data = .ratio rd st) ∧
      e'.writers = (match f.writers with
        | none => e.writers
        | some n => ⟨n.testBit 0, n.testBit 1, n.testBit 2, n.testBit 3⟩) ∧
      e'.trip = f.trip.getD e.trip ∧ e'.hyst = f.hyst.getD e.hyst ∧ e'.label = f.label.getD e.label ∧
      (∀ b, f.budget = some b → e'.score = max 1 (100 - 100 * e.rawTotal / b) ∧ e'.worst = min e.worst e'.score) ∧
      (f.budget = none → e'.score = e.score ∧ e'.worst = e.worst) ∧
      e'.computed = nextVerdict false e.cls e'.score e'.trip e'.hyst e.computed ∧
      e'.cls = e.cls ∧ e'.rawTotal = e.rawTotal ∧ e'.saturated = e.saturated ∧ e'.override = e.override ∧ e'.tags = e.tags

/-- R17, R18: the checks of AMEND in their order, each refusal applying no field; an AMEND with no field is answered OK
and changes nothing. That the verdict machine of R46 is not evaluated in that case is the model's choice (log entry 14). -/
def Obligations.AmendIsRefusedInOrder : Prop :=
  ∀ s p k r id f e, Admitted s p .amend k r → bodyFields r.body = some (id, f) → findEntry s.table id = some e →
    ((f.kind.isSome = true ∨ f.cls.isSome = true ∨ f.gate.isSome = true ∨ f.nominal.isSome = true ∨
        f.minExposure.isSome = true ∨ f.epochSize.isSome = true ∨ f.depth.isSome = true) →
      ∃ t, exec (.amend p) s = .next t ∧ AnswersOnly s t p k (r.reply .fixedField [])) ∧
    (f.kind = none → f.cls = none → f.gate = none → f.nominal = none → f.minExposure = none → f.epochSize = none →
      f.depth = none →
      ((∃ n, f.writers = some n ∧ 15 < n) ∨
       (∃ n, f.budget = some n ∧ (e.kind = .ratio ∨ n = 0 ∨ 4294967295 < n)) ∨ (∃ n, f.trip = some n ∧ 199 < n) ∨
       (∃ n, f.hyst = some n ∧ (n = 0 ∨ 50 < n)) ∨
       (∃ l, f.label = some l ∧ (16 < l.length ∨ ∃ c ∈ l, c.toNat < 0x20 ∨ 0x7E < c.toNat))) →
      ∃ t, exec (.amend p) s = .next t ∧ AnswersOnly s t p k (r.reply .outOfRange [])) ∧
    (f = ⟨none, none, none, none, none, none, none, none, none, none, none, none⟩ →
      ∃ t, exec (.amend p) s = .next t ∧
        AnswersOnly s t p k (r.reply .ok [byteOf id, byteOf e.score, byteOf e.published.code]))

/-- R19, R20, R43, R94: RETIRE removes the entry, clears and frees its records, hands on one retirement event that takes
the id from every watch list, and counts one table change. -/
def Obligations.RetireRemovesTheEntry : Prop :=
  ∀ s p k r id e, Admitted s p .retire k r → bodyByte r.body = some id → findEntry s.table id = some e →
    ∃ t, exec (.retire p) s = .next t ∧
      GrantFrame s t p k (r.reply .ok [byteOf id]) (fun q =>
        NoticeUnit.unwatch id (if (s.ports.get q).attached then (s.ports.get q).notices.retireQueue id e.score
          else (s.ports.get q).notices)) ∧
      findEntry t.table id = none ∧ (∀ i, i ≠ id → findEntry t.table i = findEntry s.table i) ∧
      (∀ q, id ∉ (t.ports.get q).notices.watch) ∧
      (∀ n ∈ e.records, recordAt t.pool n = ⟨0, 0⟩) ∧ (∀ n, n ∉ e.records → recordAt t.pool n = recordAt s.pool n) ∧
      (TableSound s → PoolSound s → ∀ n ∈ e.records, recordFree t.table n = true) ∧
      LinesFollow t ∧ t.lease = s.lease ∧
      t.snap = { s.snap with changeCount := min (s.snap.changeCount + 1) 4294967295 }

/-- R21, R43: RENEW keeps the definition, the override and the entry's records, and starts everything else again; the
machine is evaluated once against score 100. -/
def Obligations.RenewRestartsTheEntry : Prop :=
  ∀ s p k r id e, Admitted s p .renew k r → bodyByte r.body = some id → findEntry s.table id = some e →
    ∃ t e', exec (.renew p) s = .next t ∧ ReplacesEntry s t p k (r.reply .ok [byteOf id]) e e' 1 ∧
      (e'.id = id ∧ e'.cls = e.cls ∧ e'.writers = e.writers ∧ e'.trip = e.trip ∧ e'.hyst = e.hyst ∧
        e'.label = e.label ∧ e'.override = e.override) ∧
      (e'.rawTotal = 0 ∧ e'.saturated = false ∧ e'.score = 100 ∧ e'.worst = 100 ∧ e'.tags = []) ∧
      (match e.data with
       | .tally b => e'.data = .tally b ∧ e'.computed = if 100 ≤ e.trip then .tripped else .good
       | .runtime g b => e'.data = .runtime g b ∧ e'.computed = if 100 ≤ e.trip then .tripped else .good
       | .ratio rd st => e'.computed = .settling ∧ ∃ st', e'.data = .ratio rd st' ∧
           st'.lifetime = 0 ∧ st'.settled = false ∧ st'.closed = [] ∧
           (PoolSound s → (st'.opened :: st'.spares).Perm (st.closed ++ st.opened :: st.spares) ∧
             (st'.opened :: st'.spares).Pairwise (· < ·))) ∧
      (∀ n ∈ e.records, recordAt t.pool n = ⟨0, 0⟩) ∧ (∀ n, n ∉ e.records → recordAt t.pool n = recordAt s.pool n)

/-- R22, R23: DESCRIBE answers with the record of the entry, LIST with a page of the table; neither changes anything. -/
def Obligations.DescribeAndListOnlyRead : Prop :=
  ∀ s p k r id,
    (∀ e, Admitted s p .describe k r → bodyByte r.body = some id → findEntry s.table id = some e →
      ∃ t, exec (.describe p) s = .next t ∧ AnswersOnly s t p k (r.reply .ok (e.describeRecord s.pool))) ∧
    (∀ below found, Admitted s p .list k r → bodyByte r.body = some id →
      s.table = below ++ found → (∀ e ∈ below, e.id < id) → (∀ e ∈ found, id ≤ e.id) →
      ∃ t, exec (.list p) s = .next t ∧ AnswersOnly s t p k (r.reply .ok
        ([byteOf (min 16 found.length), if 16 < found.length then 1 else 0] ++
          (found.take 16).flatMap fun e =>
            [byteOf e.id, byteOf e.kind.code, byteOf e.cls.code, byteOf e.published.code, byteOf e.score])))

/-- R22, R178, R184, R186: the 108 bytes of the DESCRIBE record of a sound entry, field by field. Before it the codes of
R178 by which answers, records and images spell kinds, classes, gates, verdicts and overrides. -/
def Obligations.DescribeRecordLayout : Prop :=
  (Kind.tally.code = 1 ∧ Kind.runtime.code = 2 ∧ Kind.ratio.code = 3) ∧
  (IndicatorClass.urgent.code = 1 ∧ IndicatorClass.planned.code = 2) ∧ (Gate.run.code = 1 ∧ Gate.powered.code = 2) ∧
  (Verdict.settling.code = 1 ∧ Verdict.good.code = 2 ∧ Verdict.tripped.code = 3 ∧ Verdict.held.code = 4) ∧
  (Override.none.code = 0 ∧ Override.forceGood.code = 1 ∧ Override.forceTrip.code = 2) ∧
  ∀ (e : Entry) (pool : List EpochRecord), e.Sound → e.id ≤ 254 →
    (e.describeRecord pool).length = 108 ∧
    fieldAt (e.describeRecord pool) 0 1 = e.id ∧
    fieldAt (e.describeRecord pool) 1 1 = (match e.kind with | .tally => 1 | .runtime => 2 | .ratio => 3) ∧
    fieldAt (e.describeRecord pool) 2 1 = (match e.cls with | .urgent => 1 | .planned => 2) ∧
    fieldAt (e.describeRecord pool) 3 1 =
      (match e.data with | .runtime .run _ => 1 | .runtime .powered _ => 2 | .tally _ | .ratio _ _ => 0) ∧
    writersOf (fieldAt (e.describeRecord pool) 4 1) = e.writers ∧
    fieldAt (e.describeRecord pool) 5 2 = (match e.kind with | .tally => 0xE1B | .runtime => 0xE1F | .ratio => 0xFEB) ∧
    (match e.data with
     | .tally b | .runtime _ b =>
       fieldAt (e.describeRecord pool) 7 4 = b ∧ fieldAt (e.describeRecord pool) 11 4 = 0 ∧
       fieldAt (e.describeRecord pool) 15 4 = 0 ∧ fieldAt (e.describeRecord pool) 19 4 = 0 ∧
       fieldAt (e.describeRecord pool) 23 1 = 0 ∧ fieldAt (e.describeRecord pool) 49 6 = 0 ∧
       fieldAt (e.describeRecord pool) 56 1 = 0 ∧ fieldAt (e.describeRecord pool) 95 1 = 0 ∧
       fieldAt (e.describeRecord pool) 96 6 = 0 ∧ fieldAt (e.describeRecord pool) 102 6 = 0
     | .ratio rd st =>
       fieldAt (e.describeRecord pool) 7 4 = 0 ∧ fieldAt (e.describeRecord pool) 11 4 = rd.nominal ∧
       fieldAt (e.describeRecord pool) 15 4 = rd.minExposure ∧ fieldAt (e.describeRecord pool) 19 4 = rd.epochSize ∧
       fieldAt (e.describeRecord pool) 23 1 = rd.depth ∧ fieldAt (e.describeRecord pool) 49 6 = st.lifetime ∧
       fieldAt (e.describeRecord pool) 56 1 = (if st.settled then 1 else 0) ∧
       fieldAt (e.describeRecord pool) 95 1 = st.closed.length ∧
       fieldAt (e.describeRecord pool) 96 6 = windowErrors pool st % 281474976710656 ∧
       fieldAt (e.describeRecord pool) 102 6 = windowExposure pool st % 281474976710656) ∧
    fieldAt (e.describeRecord pool) 24 1 = e.trip ∧ fieldAt (e.describeRecord pool) 25 1 = e.hyst ∧
    fieldAt (e.describeRecord pool) 26 1 = e.label.length ∧
    ((e.describeRecord pool).drop 27).take 16 = e.label ++ List.replicate (16 - e.label.length) 0 ∧
    fieldAt (e.describeRecord pool) 43 6 = e.rawTotal ∧
    fieldAt (e.describeRecord pool) 55 1 = (if e.saturated then 1 else 0) ∧
    fieldAt (e.describeRecord pool) 57 1 = e.score ∧ fieldAt (e.describeRecord pool) 58 1 = e.worst ∧
    fieldAt (e.describeRecord pool) 59 1 =
      (match e.computed with | .settling => 1 | .good => 2 | .tripped => 3 | .held => 4) ∧
    fieldAt (e.describeRecord pool) 60 1 = (match e.override with | .none => 0 | .forceGood => 1 | .forceTrip => 2) ∧
    fieldAt (e.describeRecord pool) 61 1 =
      (match e.published with | .settling => 1 | .good => 2 | .tripped => 3 | .held => 4) ∧
    fieldAt (e.describeRecord pool) 62 1 = e.tags.length ∧
    (∀ j, j < 8 → fieldAt (e.describeRecord pool) (63 + 4 * j) 4 = e.tags.getD j 0)

/-- R17, R19, R21, R22, R24, R52, R54, R85: a request that names an id without an entry is answered NO_SUCH_INDICATOR and
changes nothing. -/
def Obligations.MissingEntryIsAnswered : Prop :=
  ∀ s p c k r id, Admitted s p c k r → findEntry s.table id = none →
    (c = .amend ∧ (∃ f, bodyFields r.body = some (id, f)) ∨
     c ∈ [RequestCode.retire, .renew, .describe, .clear, .watch] ∧ bodyByte r.body = some id ∨
     c = .override ∧ ∃ v, bodyTwoBytes r.body = some (id, v)) →
    ∃ t, exec (grantCommand p c) s = .next t ∧ AnswersOnly s t p k (r.reply .noSuchIndicator [])

/-! ### Verdicts and scores -/

/-- R49: TRIPPED is left at or above the release level, to GOOD when PLANNED and to HELD when URGENT. Beside it the moves
of R47, R48 and R50 on an evaluation: from SETTLING with the settlement indication, from GOOD and HELD at or below the
trip level, and no other. An evaluation changes nothing of an entry but its computed verdict,
and a second evaluation against the same inputs, without settlement, finds no transition. -/
def Obligations.VerdictMachineTransitions : Prop :=
  ∀ (settledNow : Bool) (e : Entry),
    (∀ b : Bool, e.evaluate b = { e with computed := (e.evaluate b).computed }) ∧
    (e.computed = .settling → (e.evaluate settledNow).computed =
      if settledNow = true then (if e.score ≤ e.trip then .tripped else .good) else .settling) ∧
    (e.computed = .good → (e.evaluate settledNow).computed = if e.score ≤ e.trip then .tripped else .good) ∧
    (e.computed = .tripped → (e.evaluate settledNow).computed =
      if (if e.trip + e.hyst ≤ 200 then e.trip + e.hyst else 200) ≤ e.score then
        (if e.cls = .urgent then .held else .good)
      else .tripped) ∧
    (e.computed = .held → (e.evaluate settledNow).computed = if e.score ≤ e.trip then .tripped else .held) ∧
    (1 ≤ e.hyst → e.trip ≤ 199 → (e.evaluate settledNow).evaluate false = e.evaluate settledNow)

/-- R52: CLEAR acts on the computed verdict: HELD becomes GOOD and counts as a table change, TRIPPED is refused with score
and release level, GOOD and SETTLING are answered OK and stay. A HELD entry with a score at or below its trip level, which
only an image that the part did not write can bring, is left to log entry 14. -/
def Obligations.ClearActsOnTheComputedVerdict : Prop :=
  ∀ s p k r id e, Admitted s p .clear k r → bodyByte r.body = some id → findEntry s.table id = some e →
    (e.computed = .held → e.trip < e.score →
      ∃ t e', exec (.clear p) s = .next t ∧ e' = { e with computed := .good } ∧
        ReplacesEntry s t p k (r.reply .ok [byteOf id, 2, byteOf e'.published.code]) e e' 1 ∧ t.pool = s.pool) ∧
    (e.computed = .tripped →
      ∃ t, exec (.clear p) s = .next t ∧ AnswersOnly s t p k
        (r.reply .conditionPresent [byteOf e.score, byteOf (min 200 (e.trip + e.hyst))])) ∧
    ((e.computed = .good ∨ e.computed = .settling) →
      ∃ t, exec (.clear p) s = .next t ∧
        AnswersOnly s t p k (r.reply .ok [byteOf id, byteOf e.computed.code, byteOf e.published.code]))

/-- R53, R54: OVERRIDE sets the override of an entry and nothing else of it, the published verdict follows as R53 derives
it, the lines follow that, and the change count stays; a value that is none of the three is refused OUT_OF_RANGE. -/
def Obligations.OverrideSetsThePublishedVerdict : Prop :=
  ∀ s p k r id v e, Admitted s p .override k r → bodyTwoBytes r.body = some (id, v) → findEntry s.table id = some e →
    (∀ o, (v = 0 ∧ o = Override.none ∨ v = 1 ∧ o = .forceGood ∨ v = 2 ∧ o = .forceTrip) →
      ∃ t e', exec (.override p) s = .next t ∧ e' = { e with override := o } ∧
        e'.published = (match o with | .none => e.computed | .forceGood => .good | .forceTrip => .tripped) ∧
        ReplacesEntry s t p k
          (r.reply .ok [byteOf id, byteOf v, byteOf e.computed.code, byteOf e'.published.code]) e e' 0 ∧
        t.pool = s.pool) ∧
    (3 ≤ v → ∃ t, exec (.override p) s = .next t ∧ AnswersOnly s t p k (r.reply .outOfRange []))

/-- R26: the usage score over the whole range of raw totals and budgets: the greater of 1 and 100 minus the floor of
100 × raw total ÷ budget, 100 below one hundredth of the budget, 1 from 99 hundredths on, never rising with the total. -/
def Obligations.UsageScoreFalls : Prop :=
  ∀ raw budget : Nat, 1 ≤ budget →
    (∀ q, budget * q ≤ 100 * raw → 100 * raw < budget * (q + 1) → usageScore raw budget = if q < 99 then 100 - q else 1) ∧
    (usageScore raw budget = 100 ↔ 100 * raw < budget) ∧ (usageScore raw budget = 1 ↔ 99 * budget ≤ 100 * raw) ∧
    (1 ≤ usageScore raw budget ∧ usageScore raw budget ≤ 100) ∧
    ∀ more, usageScore (raw + more) budget ≤ usageScore raw budget

/-- R38: the RATIO score: the rate is the floor of errors × 1,000,000 ÷ exposure, the score the greater of 1 and the lesser
of 200 and 200 minus the floor of 100 × rate ÷ nominal rate; its anchor points, and that more errors never raise it. -/
def Obligations.RatioScoreFollowsTheRate : Prop :=
  ∀ errors exposure nominal : Nat, 1 ≤ exposure → errors ≤ exposure → 1 ≤ nominal → nominal ≤ 1000000 →
    (∀ rate q, exposure * rate ≤ errors * 1000000 → errors * 1000000 < exposure * (rate + 1) →
      nominal * q ≤ 100 * rate → 100 * rate < nominal * (q + 1) →
      rate ≤ 1000000 ∧ ratioScore errors exposure nominal = if q < 199 then 200 - q else 1) ∧
    (errors = 0 → ratioScore errors exposure nominal = 200) ∧
    (errors * 1000000 = exposure * nominal → ratioScore errors exposure nominal = 100) ∧
    (exposure * (2 * nominal) ≤ errors * 1000000 → ratioScore errors exposure nominal = 1) ∧
    (1 ≤ ratioScore errors exposure nominal ∧ ratioScore errors exposure nominal ≤ 200) ∧
    (nominal = 1000000 → 100 ≤ ratioScore errors exposure nominal) ∧
    ∀ fewer, fewer ≤ errors → ratioScore errors exposure nominal ≤ ratioScore fewer exposure nominal

/-! ### Reports and accrual -/

/-- R67, R68: the checks on an item, in their order, and the refusal of the whole batch by the first item that fails: the
answer carries the code and the item's position from 1, and nothing else changes. -/
def Obligations.ReportIsRefusedWhole : Prop :=
  ∀ s p,
    (∀ i : Item,
      (findEntry s.table i.id = none → i.failure s.table p = some .noSuchIndicator) ∧
      (∀ e, findEntry s.table i.id = some e →
        (e.kind = .runtime → i.failure s.table p = some .notReportable) ∧
        (e.kind ≠ .runtime → e.writers.get p = false → i.failure s.table p = some .notWriter) ∧
        (e.kind = .tally → e.writers.get p = true →
          (i.tag ≠ some 0 ∧ (∃ n, i.value = .tally n ∧ 1 ≤ n) → i.failure s.table p = none) ∧
          (i.tag = some 0 ∨ i.value = .tally 0 ∨ (∃ er ex, i.value = .ratio er ex) →
            i.failure s.table p = some .outOfRange)) ∧
        (e.kind = .ratio → e.writers.get p = true →
          (i.tag ≠ some 0 ∧ (∃ er ex, i.value = .ratio er ex ∧ 1 ≤ ex ∧ er ≤ ex) → i.failure s.table p = none) ∧
          (i.tag = some 0 ∨ (∃ n, i.value = .tally n) ∨ (∃ er ex, i.value = .ratio er ex ∧ (ex = 0 ∨ ex < er)) →
            i.failure s.table p = some .outOfRange)))) ∧
    (∀ k r before i after code, Admitted s p .report k r → bodyItems r.body = some (before ++ i :: after) →
      (∀ j ∈ before, j.failure s.table p = none) → i.failure s.table p = some code →
      ∃ t, exec (.report p) s = .next t ∧ AnswersOnly s t p k (r.reply code [byteOf (before.length + 1)]))

/-- R69, R70, R72, R27, R40, R73: one applied TALLY item: its increment joins the raw total with saturation, its tag enters
the history as the newest, score, worst score and verdict follow, and one table change is counted. That the saturated flag
is set also at a total of exactly 2^48-1 is R7 and R29 as log entry 19 reads them against the 'past' of R72. -/
def Obligations.ReportAppliesATallyItem : Prop :=
  ∀ s p k r i e budget n, Admitted s p .report k r → bodyItems r.body = some [i] → i.failure s.table p = none →
    findEntry s.table i.id = some e → e.data = .tally budget → i.value = .tally n → (∀ tag ∈ i.tag, tag ∉ e.tags) →
    ∃ t e', exec (.report p) s = .next t ∧ ReplacesEntry s t p k (r.reply .ok [1, 0]) e e' 1 ∧ t.pool = s.pool ∧
      e' = { e with
        rawTotal := min (e.rawTotal + n) 281474976710655
        saturated := e.saturated || decide (281474976710655 ≤ e.rawTotal + n)
        score := max 1 (100 - 100 * min (e.rawTotal + n) 281474976710655 / budget)
        worst := min e.worst e'.score
        computed := nextVerdict false e.cls e'.score e.trip e.hyst e.computed
        tags := match i.tag with
          | none => e.tags
          | some tag => (if e.tags.length < 8 then e.tags else e.tags.tail) ++ [tag] }

/-- R31 to R36, R38 to R40, R69, R72: one applied RATIO item: its counts join the open epoch whole, which closes at the epoch
size, with eviction of the oldest closed epoch when the window is full, and a closing leaves the open epoch empty; then
settlement, score, worst score and verdict. The open epoch, the closed epochs and the spares are those of the entry before,
as records of the pool; the window is the closed epochs and the open one. That the saturated flag is set also at a raw total
or lifetime exposure of exactly 2^48-1 is R7 and R29 as log entry 19 reads them against the 'past' of R72. A count past
2^32-1 is a free value within the bounds of R34 (log entry 23), and that a spare which an image gave other counts is opened
empty is R34 as log entry 25 reads it. -/
def Obligations.ReportAppliesARatioItem : Prop :=
  (∀ (pool : List EpochRecord) (st : RatioState),
    windowErrors pool st = ((st.closed ++ [st.opened]).map fun n => (pool.getD n ⟨0, 0⟩).errors).sum ∧
    windowExposure pool st = ((st.closed ++ [st.opened]).map fun n => (pool.getD n ⟨0, 0⟩).exposure).sum) ∧
  ∀ s p k r i e rd st errors exposure, Admitted s p .report k r → bodyItems r.body = some [i] →
    i.failure s.table p = none → findEntry s.table i.id = some e → e.data = .ratio rd st →
    i.value = .ratio errors exposure → (∀ tag ∈ i.tag, tag ∉ e.tags) → EntriesSound s → PoolSound s →
    ∃ (t : State) (e' : Entry) (st' : RatioState) (sum : EpochRecord),
      exec (.report p) s = .next t ∧ ReplacesEntry s t p k (r.reply .ok [1, 0]) e e' 1 ∧
      ((recordAt s.pool st.opened).errors + errors ≤ 4294967295 →
        sum.errors = (recordAt s.pool st.opened).errors + errors) ∧
      ((recordAt s.pool st.opened).exposure + exposure ≤ 4294967295 →
        sum.exposure = (recordAt s.pool st.opened).exposure + exposure) ∧
      sum.errors ≤ sum.exposure ∧ 1 ≤ sum.exposure ∧ sum.exposure ≤ 4294967295 ∧
      ((sum.exposure < rd.epochSize →
          st'.closed = st.closed ∧ st'.opened = st.opened ∧ st'.spares = st.spares ∧
          recordAt t.pool st.opened = sum ∧ ∀ n, n ≠ st.opened → recordAt t.pool n = recordAt s.pool n) ∧
       (rd.epochSize ≤ sum.exposure → st.closed.length < rd.depth →
          ∃ spare rest, st.spares = spare :: rest ∧ st'.closed = st.closed ++ [st.opened] ∧ st'.opened = spare ∧
            st'.spares = rest ∧ recordAt t.pool st.opened = sum ∧ recordAt t.pool spare = ⟨0, 0⟩ ∧
            ∀ n, n ≠ st.opened → n ≠ spare → recordAt t.pool n = recordAt s.pool n) ∧
       (rd.epochSize ≤ sum.exposure → st.closed.length = rd.depth →
          ∃ oldest rest, st.closed = oldest :: rest ∧ st'.closed = rest ++ [st.opened] ∧ st'.opened = oldest ∧
            st'.spares = st.spares ∧ recordAt t.pool st.opened = sum ∧ recordAt t.pool oldest = ⟨0, 0⟩ ∧
            ∀ n, n ≠ st.opened → n ≠ oldest → recordAt t.pool n = recordAt s.pool n)) ∧
      st'.lifetime = min (st.lifetime + exposure) 281474976710655 ∧
      st'.settled = (st.settled || decide (rd.minExposure ≤ windowExposure t.pool st')) ∧
      e' = { e with
        data := .ratio rd st'
        rawTotal := min (e.rawTotal + errors) 281474976710655
        saturated := e.saturated || decide (281474976710655 ≤ e.rawTotal + errors) ||
          decide (281474976710655 ≤ st.lifetime + exposure)
        score := if st'.settled then
            max 1 (min 200 (200 - 100 * (windowErrors t.pool st' * 1000000 / windowExposure t.pool st') / rd.nominal))
          else 100
        worst := min e.worst e'.score
        computed := nextVerdict (!st.settled && st'.settled) e.cls e'.score e.trip e.hyst e.computed
        tags := match i.tag with
          | none => e.tags
          | some tag => (if e.tags.length < 8 then e.tags else e.tags.tail) ++ [tag] }

/-- R71: an item with a tag that its entry's history holds is a duplicate and changes nothing, and so is a second item with
the tag of an applied one for the same entry. -/
def Obligations.RepeatedTagIsSuppressed : Prop :=
  ∀ (s : State) (i : Item) (tag : Nat), i.tag = some tag →
    (∀ e, findEntry s.table i.id = some e → tag ∈ e.tags → s.applyItem i = (s, false)) ∧
    (∀ j : Item, j.id = i.id → j.tag = some tag → (s.applyItem i).2 = true →
      (s.applyItem i).1.applyItem j = ((s.applyItem i).1, false)) ∧
    (∀ p k r j, Admitted s p .report k r → bodyItems r.body = some [i, j] → i.failure s.table p = none →
      j.failure s.table p = none → j.id = i.id → j.tag = some tag →
      (∀ e, findEntry s.table i.id = some e → tag ∉ e.tags) →
      ∃ t u, exec (.report p) s = .next t ∧ s.applyItem i = (u, true) ∧ t.table = u.table ∧ t.pool = u.pool ∧
        (t.ports.get p).slots.get k = .answered (r.reply .ok [1, 1]))

/-- R66, R69, R71, R73: a REPORT whose items all pass applies them one by one in batch order, each to the table, the pool and
the notices that the item before it left (`State.applyItems`, whose steps are stated with it); an item is applied unless its
entry remembers its tag, and then it changes nothing. The answer is OK with the number of applied items and that of the
others; one table change is counted for each applied item; ids, definitions, overrides and every entry that no item names
stay; the lines follow, and nothing else but notices changes. (What one applied item does is ReportAppliesATallyItem and
ReportAppliesARatioItem.) -/
def Obligations.ReportCountsItsItems : Prop :=
  (∀ s : State, s.applyItems [] = (s, 0)) ∧
  (∀ (s : State) (i : Item) (is : List Item),
    s.applyItems (i :: is) = (((s.applyItem i).1.applyItems is).1,
      (if (s.applyItem i).2 then 1 else 0) + ((s.applyItem i).1.applyItems is).2)) ∧
  (∀ (s : State) (p : Port) (i : Item) (e : Entry), i.failure s.table p = none → findEntry s.table i.id = some e →
    ((s.applyItem i).2 = true ↔ ∀ tag ∈ i.tag, tag ∉ e.tags) ∧
    ((s.applyItem i).2 = false → (s.applyItem i).1 = s) ∧
    ((s.applyItem i).2 = true → ∃ e', findEntry (s.applyItem i).1.table i.id = some e' ∧
      (∀ tag ∈ i.tag, tag ∈ e'.tags) ∧
      (s.applyItem i).1.ports = s.ports.map fun ps => { ps with notices := noticesAfter e e' ps })) ∧
  ∀ s p k r items, Admitted s p .report k r → bodyItems r.body = some items →
    (∀ i ∈ items, i.failure s.table p = none) →
    ∃ t u applied, exec (.report p) s = .next t ∧ s.applyItems items = (u, applied) ∧ applied ≤ items.length ∧
      t.table = u.table ∧ t.pool = u.pool ∧
      GrantFrame s t p k (r.reply .ok [byteOf applied, byteOf (items.length - applied)])
        (fun q => (u.ports.get q).notices) ∧
      (∀ q, (s.ports.get q).attached = false → (u.ports.get q).notices = (s.ports.get q).notices) ∧
      t.snap = { s.snap with changeCount := min (s.snap.changeCount + applied) 4294967295 } ∧
      t.lease = s.lease ∧ LinesFollow t ∧ t.table.map Entry.id = s.table.map Entry.id ∧
      (∀ id, (∀ i ∈ items, i.id ≠ id) → findEntry t.table id = findEntry s.table id) ∧
      (∀ id e, findEntry s.table id = some e → ∃ e', findEntry t.table id = some e' ∧ e'.kind = e.kind ∧
        e'.cls = e.cls ∧ e'.writers = e.writers ∧ e'.trip = e.trip ∧ e'.hyst = e.hyst ∧ e'.label = e.label ∧
        e'.override = e.override ∧ min e.rawTotal 281474976710655 ≤ e'.rawTotal)

/-- R76, R77: a second tick: discarded while STARTING; otherwise the owed powered-seconds rise by one, the owed RUN-seconds
when RUN is high, both staying at 65535, and the accrual job is a candidate. That the command is taken whatever the second
timer counts, and leaves it at 0, is the model's choice (log entry 6). -/
def Obligations.SecondTickOwesASecond : Prop :=
  ∀ (s : State) (run : Bool), s.pins.resetN = false →
    ∃ t, exec (.secondTick run) s = .next t ∧ t = { s with accrual := t.accrual } ∧
      t.accrual.secondTimer = 0 ∧ t.accrual.pendRun = s.accrual.pendRun ∧
      t.accrual.pendPowered = s.accrual.pendPowered ∧
      (s.phase = .starting → t.accrual.candidate = s.accrual.candidate ∧ t.accrual.owedRun = s.accrual.owedRun ∧
        t.accrual.owedPowered = s.accrual.owedPowered) ∧
      (s.phase ≠ .starting → t.accrual.candidate = true ∧
        t.accrual.owedPowered = min (s.accrual.owedPowered + 1) 65535 ∧
        t.accrual.owedRun = if run then min (s.accrual.owedRun + 1) 65535 else s.accrual.owedRun)

/-- R78, R79, R80: the accrual job adds to each RUNTIME entry the owed and pending seconds of its gate in one step while
RUNNING, and counts one table change if it added to any; in FROZEN it holds the owed seconds over and changes no entry.
That the saturated flag is set also at a total of exactly 2^48-1 is R7 and R29 as log entry 19 reads them against the 'past'
of R72. -/
def Obligations.AccrualJobAddsOrHoldsSeconds : Prop :=
  ∀ s : State, s.arbiterChoice = some .accrual →
    (s.phase = .running → TableSound s → ∃ t, exec .accrualJob s = .next t ∧
      t = { s with accrual := t.accrual, table := t.table, ports := t.ports, urg := t.urg, pln := t.pln,
                   snap := t.snap } ∧
      t.accrual = { s.accrual with candidate := false, owedRun := 0, owedPowered := 0, pendRun := 0, pendPowered := 0 } ∧
      t.table.map Entry.id = s.table.map Entry.id ∧
      (∀ id e, findEntry s.table id = some e →
        (∀ b, e.data = .tally b → findEntry t.table id = some e) ∧
        (∀ rd st, e.data = .ratio rd st → findEntry t.table id = some e) ∧
        (∀ gate budget sum, e.data = .runtime gate budget →
          sum = (match gate with
            | .run => s.accrual.owedRun + s.accrual.pendRun
            | .powered => s.accrual.owedPowered + s.accrual.pendPowered) →
          (sum = 0 → findEntry t.table id = some e) ∧
          (1 ≤ sum → ∃ e', findEntry t.table id = some e' ∧ e' = { e with
            rawTotal := min (e.rawTotal + sum) 281474976710655
            saturated := e.saturated || decide (281474976710655 ≤ e.rawTotal + sum)
            score := max 1 (100 - 100 * min (e.rawTotal + sum) 281474976710655 / budget)
            worst := min e.worst e'.score
            computed := nextVerdict false e.cls e'.score e.trip e.hyst e.computed }))) ∧
      (∀ q, t.ports.get q = { s.ports.get q with notices := (t.ports.get q).notices } ∧
        (t.ports.get q).notices = s.table.foldl (fun n e => match findEntry t.table e.id with
          | some e' => noticesAfter e e' { s.ports.get q with notices := n }
          | none => n) (s.ports.get q).notices) ∧
      LinesFollow t ∧
      ((∃ e ∈ s.table, e.owed s.accrual ≠ 0) →
        t.snap = { s.snap with changeCount := min (s.snap.changeCount + 1) 4294967295 }) ∧
      ((∀ e ∈ s.table, e.owed s.accrual = 0) → s.snap.changeCount ≤ 4294967295 → t.snap = s.snap)) ∧
    (s.phase = .frozen → ∃ t, exec .accrualJob s = .next t ∧ t = { s with accrual :=
      { s.accrual with
        candidate := false, owedRun := 0, owedPowered := 0
        pendRun := min (s.accrual.pendRun + s.accrual.owedRun) 65535
        pendPowered := min (s.accrual.pendPowered + s.accrual.owedPowered) 65535 } })

/-! ### Watch lists and notice queues -/

/-- R85, R86: WATCH adds an id with an entry to the port's list once, up to 32 ids; UNWATCH takes it off and is always
answered OK; neither touches the queue. -/
def Obligations.WatchListsFollowRequests : Prop :=
  ∀ s p k r id,
    (∀ e, Admitted s p .watch k r → bodyByte r.body = some id → findEntry s.table id = some e →
      (id ∈ (s.ports.get p).notices.watch → ∃ t, exec (.watch p) s = .next t ∧
        AnswersOnly s t p k (r.reply .ok
          [byteOf id, byteOf e.published.code, byteOf e.score, byteOf (s.ports.get p).notices.watch.length])) ∧
      (id ∉ (s.ports.get p).notices.watch → 32 ≤ (s.ports.get p).notices.watch.length →
        ∃ t, exec (.watch p) s = .next t ∧ AnswersOnly s t p k (r.reply .watchFull [])) ∧
      (id ∉ (s.ports.get p).notices.watch → (s.ports.get p).notices.watch.length < 32 →
        ∃ t watch, exec (.watch p) s = .next t ∧ watch.Perm (id :: (s.ports.get p).notices.watch) ∧
          GrantFrame s t p k (r.reply .ok
            [byteOf id, byteOf e.published.code, byteOf e.score, byteOf ((s.ports.get p).notices.watch.length + 1)])
            (fun q => if q = p then { (s.ports.get p).notices with watch := watch } else (s.ports.get q).notices) ∧
          t = { s with ports := t.ports, lastServed := p })) ∧
    (Admitted s p .unwatch k r → bodyByte r.body = some id →
      ∃ t watch, exec (.unwatch p) s = .next t ∧ id ∉ watch ∧
        (∀ i, i ≠ id → (i ∈ watch ↔ i ∈ (s.ports.get p).notices.watch)) ∧
        GrantFrame s t p k (r.reply .ok [byteOf id, byteOf watch.length])
          (fun q => if q = p then { (s.ports.get p).notices with watch := watch } else (s.ports.get q).notices) ∧
        t = { s with ports := t.ports, lastServed := p })

/-- R98, R99: FETCH answers with the first notices, up to six, as they stood, marks them delivered and clears the lost
flag; ACK removes the notices up to the delivered one it names, and is refused BAD_SEQUENCE when there is none. R178, R186:
the 12 bytes of a notice in the answer, field by field. -/
def Obligations.FetchAndAckServeTheQueue : Prop :=
  (∀ x : Notice, x.bytes.length = 12 ∧ x.bytes.take 2 = [byteOf x.seq, byteOf (x.seq / 256)] ∧
    x.bytes.drop 11 = [if x.delivered then 1 else 0] ∧
    (∀ id fromV toV score count, x.body = .verdict id fromV toV score count → (x.bytes.drop 2).take 9 =
      [1, byteOf id, (match fromV with | .settling => 1 | .good => 2 | .tripped => 3 | .held => 4),
       (match toV with | .settling => 1 | .good => 2 | .tripped => 3 | .held => 4), byteOf score, byteOf count, 0, 0xFF, 0]) ∧
    (∀ id score count, x.body = .retired id score count → (x.bytes.drop 2).take 9 =
      [2, byteOf id, 0, 0, byteOf score, byteOf count, 0, 0xFF, 0]) ∧
    (x.body = .system .snapshotFailed → (x.bytes.drop 2).take 9 = [3, 0, 0, 0, 0, 1, 1, 0xFF, 0]) ∧
    (∀ former reason, x.body = .system (.leaseEnded former reason) → (x.bytes.drop 2).take 9 =
      [3, 0, 0, 0, 0, 1, 2, (match former with | .p0 => 0 | .p1 => 1 | .p2 => 2 | .p3 => 3),
       (match reason with | .released => 1 | .expired => 2 | .portReset => 3)]) ∧
    (x.body = .system .frozenEntered → (x.bytes.drop 2).take 9 = [3, 0, 0, 0, 0, 1, 3, 0xFF, 0]) ∧
    (x.body = .system .frozenLeft → (x.bytes.drop 2).take 9 = [3, 0, 0, 0, 0, 1, 4, 0xFF, 0])) ∧
  ∀ s p k r,
    (Admitted s p .fetch k r → r.body = [] →
      ∃ t n, exec (.fetch p) s = .next t ∧ n = (s.ports.get p).notices ∧
        GrantFrame s t p k (r.reply .ok
          ([byteOf (min 6 n.queue.length), if n.lost then 1 else 0,
            byteOf ((n.queue.drop 6).filter fun x => !x.delivered).length] ++ (n.queue.take 6).flatMap Notice.bytes))
          (fun q => if q = p then
              { n with
                queue := ((n.queue.take 6).map fun x => { x with delivered := true }) ++ n.queue.drop 6
                lost := false }
            else (s.ports.get q).notices) ∧
        t = { s with ports := t.ports, lastServed := p }) ∧
    (∀ seq, Admitted s p .ack k r → bodyWord r.body = some seq →
      ((∀ x ∈ (s.ports.get p).notices.queue, x.seq = seq → x.delivered = false) →
        ∃ t, exec (.ack p) s = .next t ∧ AnswersOnly s t p k (r.reply .badSequence [])) ∧
      (∀ before x after, (s.ports.get p).notices.queue = before ++ x :: after → x.seq = seq → x.delivered = true →
        (∀ y ∈ before, y.seq ≠ seq) →
        ∃ t, exec (.ack p) s = .next t ∧
          GrantFrame s t p k (r.reply .ok [byteOf (before.length + 1), byteOf after.length])
            (fun q => if q = p then { (s.ports.get p).notices with queue := after } else (s.ports.get q).notices) ∧
          t = { s with ports := t.ports, lastServed := p }))

/-- R90, R92 to R96: where a verdict change event, a retirement event or a system event goes in one port's queue: in-place
update, conversion, append with the next sequence, or loss with the lost flag; a system event is appended or lost. -/
def Obligations.EventsFindTheirPlaceInAQueue : Prop :=
  ∀ n : NoticeUnit,
    (∀ ev : VerdictEvent,
      (ev.id ∉ n.watch → n.onVerdict ev = n) ∧
      (ev.id ∈ n.watch → ∀ before seq fromV toV score count after,
        n.queue = before ++ ⟨seq, .verdict ev.id fromV toV score count, false⟩ :: after →
        (∀ x ∈ before ++ after, x.openId ≠ some ev.id) →
        n.onVerdict ev = { n with queue :=
          before ++ ⟨seq, .verdict ev.id fromV ev.toVerdict ev.score (min (count + 1) 255), false⟩ :: after }) ∧
      (ev.id ∈ n.watch → (∃ seq score count, ⟨seq, .retired ev.id score count, false⟩ ∈ n.queue) →
        (∀ x ∈ n.queue, ∀ seq fromV toV score count, x ≠ ⟨seq, .verdict ev.id fromV toV score count, false⟩) →
        n.onVerdict ev = { n with lost := true }) ∧
      (ev.id ∈ n.watch → (∀ x ∈ n.queue, x.openId ≠ some ev.id) →
        n.onVerdict ev =
          if n.queue.length < 16 then
            { n with
              queue := n.queue ++
                [⟨(n.seq + 1) % 65536, .verdict ev.id ev.fromVerdict ev.toVerdict ev.score 1, false⟩]
              seq := (n.seq + 1) % 65536 }
          else { n with lost := true })) ∧
    (∀ id last,
      (∀ before seq fromV toV score count after,
        n.queue = before ++ ⟨seq, .verdict id fromV toV score count, false⟩ :: after →
        (∀ x ∈ before ++ after, x.openId ≠ some id) →
        n.retireQueue id last = { n with queue := before ++ ⟨seq, .retired id last count, false⟩ :: after }) ∧
      (id ∈ n.watch → ∀ before seq score count after,
        n.queue = before ++ ⟨seq, .retired id score count, false⟩ :: after →
        (∀ x ∈ before ++ after, x.openId ≠ some id) →
        n.retireQueue id last =
          { n with queue := before ++ ⟨seq, .retired id last (min (count + 1) 255), false⟩ :: after }) ∧
      (id ∈ n.watch → (∀ x ∈ n.queue, x.openId ≠ some id) →
        n.retireQueue id last =
          if n.queue.length < 16 then
            { n with
              queue := n.queue ++ [⟨(n.seq + 1) % 65536, .retired id last 1, false⟩]
              seq := (n.seq + 1) % 65536 }
          else { n with lost := true }) ∧
      (id ∉ n.watch → (∀ x ∈ n.queue, ∀ seq fromV toV score count, x ≠ ⟨seq, .verdict id fromV toV score count, false⟩) →
        n.retireQueue id last = n)) ∧
    (∀ (s : State) (ev : SystemEvent) (q : Port),
      (s.systemEvent ev).ports.get q = { s.ports.get q with notices :=
        if (s.ports.get q).attached = false then (s.ports.get q).notices
        else if (s.ports.get q).notices.queue.length < 16 then
          { (s.ports.get q).notices with
            queue := (s.ports.get q).notices.queue ++
              [⟨((s.ports.get q).notices.seq + 1) % 65536, .system ev, false⟩]
            seq := ((s.ports.get q).notices.seq + 1) % 65536 }
        else { (s.ports.get q).notices with lost := true } })

/-! ### The configuration lease -/

/-- R107: CLAIM with duration 0 is refused OUT_OF_RANGE; with no holder or the port itself as holder the port holds the
lease with the duration carried, its timer started; while another port holds it the answer is HELD_ELSEWHERE. -/
def Obligations.ClaimTakesTheLease : Prop :=
  ∀ s p k r duration, Admitted s p .claim k r → bodyByte r.body = some duration →
    (duration = 0 → ∃ t, exec (.claim p) s = .next t ∧ AnswersOnly s t p k (r.reply .outOfRange [])) ∧
    (1 ≤ duration → (s.lease.holder = none ∨ s.lease.holder = some p) →
      ∃ t, exec (.claim p) s = .next t ∧
        GrantFrame s t p k (r.reply .ok [byteOf (portCode p), byteOf duration, byteOf duration])
          (fun q => (s.ports.get q).notices) ∧
        t = { s with ports := t.ports, lastServed := p, lease :=
          { holder := some p, duration := duration, remaining := duration, prescaler := some 0 } }) ∧
    (∀ q, 1 ≤ duration → s.lease.holder = some q → q ≠ p →
      ∃ t, exec (.claim p) s = .next t ∧
        AnswersOnly s t p k (r.reply .heldElsewhere [byteOf (portCode q), byteOf s.lease.remaining]))

/-- R109, R56, R113: RELEASE by the holder ends the lease with reason RELEASED, the override drop and the LEASE_ENDED
notice within the grant; by any other port it is answered NOT_HOLDER with the holder and its remaining time. -/
def Obligations.ReleaseEndsTheLease : Prop :=
  ∀ s p k r, Admitted s p .release k r → r.body = [] →
    (s.lease.holder = some p → ∃ t, exec (.release p) s = .next t ∧ LeaseEnded s t ∧
      GrantFrame s t p k (r.reply .ok []) (fun q => noticesAfterLeaseEnd s.table p .released (s.ports.get q)) ∧
      t.snap = s.snap) ∧
    (s.lease.holder ≠ some p → ∃ t, exec (.release p) s = .next t ∧
      AnswersOnly s t p k (r.reply .notHolder
        [match s.lease.holder with | none => 0xFF | some q => byteOf (portCode q), byteOf s.lease.remaining]))

/-- R105, R111, R113: each completed lease unit takes one from the remaining time; the one that takes it to 0, and the
expiry itself, end the lease with reason EXPIRED (for the two commands see log entry 9). That without a lease, whose timer
is stopped, both do nothing is the model's choice (log entry 3). That a unit's command is taken whatever the prescaler
counts, and leaves it at 0, is the model's choice too (log entry 6). -/
def Obligations.LeaseCountsDownAndExpires : Prop :=
  ∀ (s : State) (c : Instr), c = .leaseUnitComplete ∨ c = .leaseExpiry →
    (∀ p, s.lease.holder = some p → s.lease.remaining ≤ 1 → ∃ t, exec c s = .next t ∧ LeaseEnded s t ∧
      (∀ q, t.ports.get q =
        { s.ports.get q with notices := noticesAfterLeaseEnd s.table p .expired (s.ports.get q) }) ∧
      t.snap = s.snap ∧ t.lastServed = s.lastServed ∧ t.pins = s.pins) ∧
    (∀ p, s.lease.holder = some p → 2 ≤ s.lease.remaining →
      exec .leaseUnitComplete s =
        .next { s with lease := { s.lease with remaining := s.lease.remaining - 1, prescaler := some 0 } }) ∧
    (s.lease.holder = none → exec c s = .next s)

/-! ### Agent ports -/

/-- R110, R123, R124, R136: a well-formed frame takes the lowest-numbered FREE slot: QUEUED in RUNNING and FROZEN, where
it restarts the lease timer of a holder, and ANSWERED NOT_READY while STARTING; with no slot FREE it counts as an overrun. -/
def Obligations.FrameArrivalFillsASlot : Prop :=
  ∀ (s : State) (p : Port) (r : Request), s.pins.resetN = false → s.pins.prstN.get p = false →
    (s.ports.get p).reading = none → r.body.length ≤ 60 →
    (∀ k, (s.ports.get p).slots.get k = .free →
      (∀ j, j ∈ ([SlotNo.a, .b, .c, .d].takeWhile fun i => decide (i ≠ k)) → (s.ports.get p).slots.get j ≠ .free) →
      (s.phase ≠ .starting → ∃ t, exec (.frameArrival p r.frame) s = .next t ∧
        t = { s with ports := t.ports, lease := t.lease } ∧
        t.ports.get p = { s.ports.get p with
          slots := (s.ports.get p).slots.set k (.queued r), arrival := (s.ports.get p).arrival ++ [k] } ∧
        (∀ q, q ≠ p → t.ports.get q = s.ports.get q) ∧
        t.lease = if s.lease.holder = some p then
          { s.lease with remaining := s.lease.duration, prescaler := some 0 } else s.lease) ∧
      (s.phase = .starting → ∃ t, exec (.frameArrival p r.frame) s = .next t ∧
        t = { s with ports := t.ports } ∧
        t.ports.get p = { s.ports.get p with
          slots := (s.ports.get p).slots.set k (.answered (r.reply .notReady [])),
          answers := (s.ports.get p).answers ++ [k] } ∧
        (∀ q, q ≠ p → t.ports.get q = s.ports.get q))) ∧
    ((∀ k, (s.ports.get p).slots.get k ≠ .free) → ∃ t, exec (.frameArrival p r.frame) s = .next t ∧
      t = { s with ports := t.ports } ∧
      t.ports.get p = { s.ports.get p with overrun := min ((s.ports.get p).overrun + 1) 255 } ∧
      (∀ q, q ≠ p → t.ports.get q = s.ports.get q))

/-- R117, R118, R123, R132, R180: a frame that fails the size, the length or the CRC check, and a transaction whose select
byte is neither WRITE nor READ, raise the bad-frame count and do nothing else; an empty WRITE does nothing; a port held by a
reset takes nothing (R117). SCK idles low, and what it takes from SDI are the levels at the rising edges of SCK (R117). The
select byte decides which of the transactions it is: 0xA5 is WRITE and 0x5A is READ (R179). That a whole WRITE is one
command, a whole READ two and an invalid transaction one is log entry 20. -/
def Obligations.UnusableTransactionsAreCounted : Prop :=
  ∀ (s : State) (p : Port) (bytes : List Byte),
    (s.pins.resetN = false → s.pins.prstN.get p = false → (s.ports.get p).reading = none →
      (bytes ≠ [] → (64 < bytes.length ∨ bytes.length < 4 ∨ (∃ b ∈ bytes.head?, b.toNat ≠ bytes.length) ∨
          ∃ body last, bytes = body ++ [last] ∧ crc8 body ≠ last) →
        ∃ t, exec (.frameArrival p bytes) s = .next t ∧ t = { s with ports := t.ports } ∧
          t.ports.get p = { s.ports.get p with badFrame := min ((s.ports.get p).badFrame + 1) 255 } ∧
          ∀ q, q ≠ p → t.ports.get q = s.ports.get q) ∧
      (∃ t, exec (.invalidSelectEnd p) s = .next t ∧ t = { s with ports := t.ports } ∧
        t.ports.get p = { s.ports.get p with badFrame := min ((s.ports.get p).badFrame + 1) 255 } ∧
        ∀ q, q ≠ p → t.ports.get q = s.ports.get q) ∧
      exec (.frameArrival p []) s = .next s) ∧
    ((s.pins.resetN = true ∨ s.pins.prstN.get p = true) → ∀ c ∈ [Instr.frameArrival p bytes, .invalidSelectEnd p,
      .readSelect p], exec c s = .next s) ∧
    transactionCommands p [] = [] ∧ transactionCommands p (0xA5 :: bytes) = [.frameArrival p bytes] ∧
    transactionCommands p (0x5A :: bytes) = [.readSelect p, .readEnd p bytes.length] ∧
    (∀ sel : Byte, sel ≠ 0xA5 → sel ≠ 0x5A → transactionCommands p (sel :: bytes) = [.invalidSelectEnd p]) ∧
    (∀ train : List Byte, ∀ extra : List Bool, extra.length < 8 →
      transactionOfBits p (train.flatMap bitsOfByte ++ extra) = transactionCommands p train) ∧
    ∀ sdi : List (Bool × Bool), transactionOfLevels p (sckLevels sdi) = transactionOfBits p (sdi.map Prod.snd)

/-- R128, R129, R130, R179: the READ select byte fixes header and head answer; at the end of the transaction the answer is
consumed exactly when all its bytes were clocked out and its slot still holds it. The header shows the state as it stands.
R117, R118: within a transaction SDO drives, after the byte of the select, what a READ has fixed, and fill bytes in a WRITE
and in an invalid transaction, most significant bit first, the first bit from the start and
each later one from a falling edge of SCK on; outside a transaction, and while PRST_N or RESET_N is asserted, it is
released. What it drives while the select byte is coming in is a free value (log entry 24). R179, R182: the bytes of an
answer frame, with the code of each result. -/
def Obligations.ReadTransactionDeliversTheHeadAnswer : Prop :=
  (∀ (a : Answer) (front : List Byte),
    front = [byteOf (a.body.length + 5), a.tag, a.code,
      match a.result with
      | .ok => 0x00 | .notReady => 0x01 | .notAttached => 0x02 | .badRequest => 0x03 | .noSuchIndicator => 0x10
      | .exists_ => 0x11 | .tableFull => 0x12 | .poolShort => 0x13 | .outOfRange => 0x14 | .fixedField => 0x15
      | .notWriter => 0x16 | .notReportable => 0x17 | .notHolder => 0x20 | .heldElsewhere => 0x21 | .frozen => 0x22
      | .watchFull => 0x23 | .badSequence => 0x24 | .conditionPresent => 0x25 | .snapshotFailed => 0x26] ++ a.body →
    a.frame = front ++ [crc8 front]) ∧
  ∀ (s : State) (p : Port),
    (s.pins.resetN = false → s.pins.prstN.get p = false → (s.ports.get p).reading = none →
      ∃ t x, exec (.readSelect p) s = .next t ∧ t = { s with ports := t.ports } ∧
        t.ports.get p = { s.ports.get p with reading := some x } ∧ (∀ q, q ≠ p → t.ports.get q = s.ports.get q) ∧
        x.header.length = 12 ∧ x.header.take 11 =
          [(match s.phase with | .starting => 0 | .running => 1 | .frozen => 2),
           if (s.ports.get p).attached then 1 else 0, byteOf (s.ports.get p).slotsInUse,
           byteOf (s.ports.get p).answersReady, byteOf (s.ports.get p).notices.queue.length,
           byteOf ((s.ports.get p).notices.queue.filter fun n => !n.delivered).length,
           if (s.ports.get p).notices.lost then 1 else 0, byteOf (s.ports.get p).overrun,
           byteOf (s.ports.get p).badFrame, (match s.lease.holder with | none => 0xFF | some q => byteOf (portCode q)),
           if s.lease.holder = some p then byteOf s.lease.remaining else 0] ∧
        x.header.drop 11 = [crc8 (x.header.take 11)] ∧
        ((s.ports.get p).answers = [] → x.answer = none) ∧
        (∀ k rest a, (s.ports.get p).answers = k :: rest → (s.ports.get p).slots.get k = .answered a →
          x.answer = some (k, a)) ∧
        ∀ n, x.sdo n = (x.header ++ (match x.answer with | none => [] | some y => y.2.frame) ++ List.replicate n 0).take n) ∧
    (∀ x clocked, (s.ports.get p).reading = some x → ∃ t, exec (.readEnd p clocked) s = .next t ∧
      t = { s with ports := t.ports } ∧ (∀ q, q ≠ p → t.ports.get q = s.ports.get q) ∧
      (∀ k a, x.answer = some (k, a) → (s.ports.get p).slots.get k = .answered a →
        x.header.length + (a.body.length + 5) ≤ clocked →
        t.ports.get p = { s.ports.get p with
          reading := none, slots := (s.ports.get p).slots.set k .free,
          answers := (s.ports.get p).answers.filter fun j => decide (j ≠ k) }) ∧
      ((∀ k a, x.answer = some (k, a) → (s.ports.get p).slots.get k ≠ .answered a ∨
          clocked < x.header.length + (a.body.length + 5)) →
        t.ports.get p = { s.ports.get p with reading := none })) ∧
    s.sdo p none = none ∧
    (s.pins.resetN = true ∨ s.pins.prstN.get p = true → ∀ levels, s.sdo p levels = none) ∧
    (s.pins.resetN = false → s.pins.prstN.get p = false → ∀ (sdi : List (Bool × Bool)) (n : Nat) (x : Bool),
      n < sdi.length →
      s.sdo p (some (sckLevels (sdi.take n) ++ [(false, x)])) = (s.sdoBits p (sdi.map Prod.snd))[n]? ∧
      s.sdo p (some (sckLevels (sdi.take (n + 1)))) = (s.sdoBits p (sdi.map Prod.snd))[n]?) ∧
    (∃ first : Byte, ∀ (train : List Byte) (extra : List Bool), extra.length < 8 →
      (train = [] → s.sdoBits p extra = (bitsOfByte first).take extra.length) ∧
      (∀ sel bytes, train = sel :: bytes →
        (sel ≠ 0x5A → s.sdoBits p (train.flatMap bitsOfByte ++ extra) =
          ((first :: List.replicate train.length 0).flatMap bitsOfByte).take (8 * train.length + extra.length)) ∧
        (sel = 0x5A → s.pins.resetN = false → s.pins.prstN.get p = false → (s.ports.get p).reading = none →
          ∀ t x, exec (.readSelect p) s = .next t → (t.ports.get p).reading = some x →
          s.sdoBits p (train.flatMap bitsOfByte ++ extra) =
            ((first :: x.sdo train.length).flatMap bitsOfByte).take (8 * train.length + extra.length))))

/-- R133: PRST_N frees every slot, clears the counts, detaches the port, empties its notice unit and ends its lease; the
transaction in progress is abandoned (R117); its deassertion starts nothing. -/
def Obligations.PortResetFreesThePort : Prop :=
  ∀ (s : State) (p : Port),
    (∃ t, exec (.portReset p) s = .next t ∧ t.lastServed = s.lastServed ∧
      t.pins = { s.pins with prstN := t.pins.prstN } ∧ t.pins.prstN.get p = true ∧
      (∀ q, q ≠ p → t.pins.prstN.get q = s.pins.prstN.get q) ∧
      t.ports.get p =
        { attached := false, slots := ⟨.free, .free, .free, .free⟩, arrival := [], answers := [], overrun := 0,
          badFrame := 0, reading := none, notices := ⟨[], [], false, 0⟩ } ∧
      t.atnAsserted p = false ∧ PortResetAround s t p) ∧
    (∃ t, exec (.prstDeassert p) s = .next t ∧ t = { s with pins := t.pins } ∧
      t.pins = { s.pins with prstN := t.pins.prstN } ∧ t.pins.prstN.get p = false ∧
      ∀ q, q ≠ p → t.pins.prstN.get q = s.pins.prstN.get q)

/-- R123, R179, R180, R183 to R185: what the part reads from a request frame is what its fields were: a frame of a request
is well formed and spells that request, and the bodies of DEFINE, AMEND and REPORT spell their fields and items. R182: each
of the 19 request codes selects its request, and no other byte selects any. -/
def Obligations.RequestEncodingsAgree : Prop :=
  (∀ (code : Byte) (c : RequestCode), requestOf code = some c ↔ (code, c) ∈
    [((0x01 : Byte), RequestCode.attach), (0x02, .detach), (0x10, .define), (0x11, .amend), (0x12, .retire),
     (0x13, .renew), (0x14, .describe), (0x15, .list), (0x16, .clear), (0x17, .override), (0x20, .report),
     (0x30, .watch), (0x31, .unwatch), (0x32, .fetch), (0x33, .ack), (0x40, .claim), (0x41, .release), (0x50, .save),
     (0x51, .settings)]) ∧
  (∀ r : Request, r.body.length ≤ 60 → frameOk r.frame = true ∧ frameRequest r.frame = r) ∧
  (∀ (id : Nat) (f : Fields), id < 256 →
    (∀ v ∈ [f.kind, f.cls, f.gate, f.writers, f.depth, f.trip, f.hyst], ∀ n ∈ v, n < 256) →
    (∀ v ∈ [f.budget, f.nominal, f.minExposure, f.epochSize], ∀ n ∈ v, n < 4294967296) →
    (∀ l ∈ f.label, l.length < 256) →
    bodyFields (encodeFieldsBody id f) = some (id, f)) ∧
  (∀ items : List Item, 1 ≤ items.length → items.length ≤ 8 →
    (∀ i ∈ items, i.id < 256 ∧ (∀ tag ∈ i.tag, tag < 4294967296) ∧
      match i.value with
      | .tally n => n < 65536
      | .ratio er ex => er < 65536 ∧ ex < 16777216) →
    bodyItems (encodeItemsBody items) = some items)

/-! ### Snapshots -/

/-- R141, R142: SAVE with nothing to write is answered at once with the newest completed generation; otherwise it waits,
on the snapshot it requests, on the one in flight, or on the next one, which it makes follow. (In CAPTURE_PENDING no port
request is granted, R9.) -/
def Obligations.SaveWaitsForItsSnapshot : Prop :=
  ∀ s p k r, Admitted s p .save k r → r.body = [] →
    (s.snap.phase = .idle → s.snap.changeCount = 0 → ∃ t, exec (.save p) s = .next t ∧
      AnswersOnly s t p k (r.reply .ok (leBytes 4 s.snap.newestGen ++ leBytes 4 0))) ∧
    (s.snap.phase ≠ .idle ∨ 1 ≤ s.snap.changeCount → ∃ t, exec (.save p) s = .next t ∧
      t = { s with lastServed := p, ports := t.ports, snap := t.snap } ∧
      t.ports.get p = { s.ports.get p with
        arrival := (s.ports.get p).arrival.tail, slots := (s.ports.get p).slots.set k (.waiting r) } ∧
      (∀ q, q ≠ p → t.ports.get q = s.ports.get q) ∧
      (s.snap.phase = .idle → t.snap = { s.snap with
        phase := .capturePending, waiting := s.snap.waiting ++ [⟨p, k, .current⟩] }) ∧
      (s.snap.phase = .writing ∨ s.snap.phase = .verifying →
        (s.snap.changeCount = 0 → t.snap = { s.snap with waiting := s.snap.waiting ++ [⟨p, k, .current⟩] }) ∧
        (1 ≤ s.snap.changeCount → t.snap = { s.snap with
          again := true, waiting := s.snap.waiting ++ [⟨p, k, .next⟩] })))

/-- R140, R143, R144: SETTINGS replaces the interval, starts the autosave timer with it or stops it, and counts one table
change; an interval above 1440 is refused. The expiry of a running autosave timer makes an autosave request and starts the
timer again. That the expiry is taken whatever the timer counts is the
model's choice (log entry 6). -/
def Obligations.SettingsAndAutosaveTimer : Prop :=
  (∀ s p k r interval, Admitted s p .settings k r → bodyWord r.body = some interval →
    (1440 < interval → ∃ t, exec (.settings p) s = .next t ∧ AnswersOnly s t p k (r.reply .outOfRange [])) ∧
    (interval ≤ 1440 → ∃ t, exec (.settings p) s = .next t ∧
      GrantFrame s t p k (r.reply .ok (leBytes 2 interval)) (fun q => (s.ports.get q).notices) ∧
      t = { s with lastServed := p, ports := t.ports, snap := t.snap } ∧
      t.snap = { s.snap with
        interval := interval, changeCount := min (s.snap.changeCount + 1) 4294967295
        autosave := if interval = 0 then none else some (interval * 60 * 32768) })) ∧
  (∀ s : State, s.snap.autosave.isSome = true → ∃ t, exec .autosaveExpiry s = .next t ∧ t = { s with snap := t.snap } ∧
    t.snap = { s.snap with
      phase := if s.snap.phase = .idle ∧ 1 ≤ s.snap.changeCount then .capturePending else s.snap.phase
      again := s.snap.again ||
        (decide (s.snap.phase = .writing ∨ s.snap.phase = .verifying) && decide (1 ≤ s.snap.changeCount))
      autosave := if s.snap.interval = 0 then none else some (s.snap.interval * 60 * 32768) })

/-- R145, R146, R187: the capture takes the change count as the captured amount, chooses the bank that does not hold the
newest completed image and the next generation, fills the buffer with header and body, with a check word that makes the
word sum 0, and hands the first erase to the link. Beside it R178 and R187 for the 64-byte record of a sound entry, field by
field. -/
def Obligations.CaptureFillsTheBuffer : Prop :=
  (∀ (e : Entry) (rec : List Byte), e.Sound → e.id ≤ 254 → rec = e.recordBytes →
    rec.length = 64 ∧ fieldAt rec 0 1 = e.id ∧
    fieldAt rec 1 1 % 4 = (match e.kind with | .tally => 1 | .runtime => 2 | .ratio => 3) ∧
    (fieldAt rec 1 1).testBit 2 = (match e.cls with | .urgent => false | .planned => true) ∧
    fieldAt rec 1 1 / 8 % 4 =
      (match e.data with | .runtime .run _ => 1 | .runtime .powered _ => 2 | .tally _ | .ratio _ _ => 0) ∧
    (fieldAt rec 1 1).testBit 5 = e.saturated ∧ (fieldAt rec 1 1).testBit 7 = false ∧
    (∀ p, (fieldAt rec 2 1).testBit (match p with | .p0 => 0 | .p1 => 1 | .p2 => 2 | .p3 => 3) = e.writers.get p) ∧
    fieldAt rec 2 1 < 16 ∧ fieldAt rec 3 1 = e.trip ∧ fieldAt rec 4 1 = e.hyst ∧
    (match e.data with
     | .tally b | .runtime _ b =>
       (fieldAt rec 1 1).testBit 6 = false ∧ fieldAt rec 5 1 = 0 ∧ fieldAt rec 6 4 = b ∧ fieldAt rec 10 4 = 0 ∧
       fieldAt rec 14 4 = 0 ∧ fieldAt rec 18 4 = 0 ∧ fieldAt rec 28 6 = 0 ∧ rec.drop 54 = List.replicate 10 0
     | .ratio rd st =>
       (fieldAt rec 1 1).testBit 6 = st.settled ∧ fieldAt rec 5 1 = rd.depth ∧ fieldAt rec 6 4 = 0 ∧
       fieldAt rec 10 4 = rd.nominal ∧ fieldAt rec 14 4 = rd.minExposure ∧ fieldAt rec 18 4 = rd.epochSize ∧
       fieldAt rec 28 6 = st.lifetime ∧ fieldAt rec 54 1 = st.closed.length ∧
       rec.drop 55 =
         (st.closed ++ st.opened :: st.spares).map byteOf ++ List.replicate (8 - rd.depth) 0) ∧
    fieldAt rec 22 6 = e.rawTotal ∧ fieldAt rec 34 1 = e.score ∧ fieldAt rec 35 1 = e.worst ∧
    fieldAt rec 36 1 = (match e.computed with | .settling => 1 | .good => 2 | .tripped => 3 | .held => 4) ∧
    fieldAt rec 37 1 = e.label.length ∧
    (rec.drop 38).take 16 = e.label ++ List.replicate (16 - e.label.length) 0) ∧
  ∀ s : State, s.arbiterChoice = some .capture → s.table.length ≤ 64 → PoolSound s →
    s.snap.newestGen ≤ 4294967295 → s.snap.interval ≤ 1440 →
    ∃ t image bank, exec .captureJob s = .next t ∧ t = { s with snap := t.snap, link := t.link } ∧
      bank = (match s.snap.newestBank with | none => Bank.a | some .a => .b | some .b => .a) ∧
      t.snap = { s.snap with
        phase := .writing, captured := s.snap.changeCount, changeCount := 0, attempt := .first, target := bank
        buffer := some image } ∧
      t.link.phase = .readyWait ∧ t.link.op = some ⟨.erase 0, bank, .snapshot⟩ ∧ t.link.timer = some ⟨0, 13108⟩ ∧
      image.header.length = 256 ∧ image.body.length = 8192 ∧
      fieldAt image.header 0 4 = 0x43555A56 ∧ fieldAt image.header 4 2 = 1 ∧
      fieldAt image.header 6 4 = (if s.snap.newestGen = 4294967295 then 1 else s.snap.newestGen + 1) ∧
      fieldAt image.header 10 2 = 8192 ∧ (wordSum image.body + fieldAt image.header 12 4) % 4294967296 = 0 ∧
      fieldAt image.header 16 2 = s.snap.interval ∧ fieldAt image.header 18 1 = s.table.length ∧
      image.header.drop 19 = List.replicate 237 0 ∧
      (∀ i e, s.table[i]? = some e →
        (image.body.drop (64 * i)).take 64 = e.recordBytes ∧
        ∀ j, j < 8 → fieldAt image.body (6144 + 32 * i + 4 * j) 4 = e.tags.getD j 0 % 4294967296) ∧
      (∀ i, s.table.length ≤ i → i < 64 →
        (image.body.drop (64 * i)).take 64 = List.replicate 64 0 ∧
        (image.body.drop (6144 + 32 * i)).take 32 = List.replicate 32 0) ∧
      (∀ n, n < 256 →
        fieldAt image.body (4096 + 8 * n) 4 = (recordAt s.pool n).errors ∧
        fieldAt image.body (4100 + 8 * n) 4 = (recordAt s.pool n).exposure)

/-- R154, R156, R81: PFW_N asserting in RUNNING makes the phase FROZEN, with one notice for each attached port and a
power-fail request; its deassertion in FROZEN makes it RUNNING, with one notice, and the accrual job a candidate when
seconds are pending. In any other phase only the level is kept. -/
def Obligations.PowerFailFreezesAndThaws : Prop :=
  ∀ s : State,
    (s.phase = .running → ∃ t, exec .pfwAssert s = .next t ∧
      t = { s with phase := .frozen, ports := t.ports, snap := t.snap, pins := { s.pins with pfwN := true } } ∧
      (∀ q, t.ports.get q = { s.ports.get q with
        notices := if (s.ports.get q).attached then (s.ports.get q).notices.append (.system .frozenEntered)
          else (s.ports.get q).notices }) ∧
      t.snap = { s.snap with
        phase := if s.snap.phase = .idle ∧ 1 ≤ s.snap.changeCount then .capturePending else s.snap.phase
        again := s.snap.again ||
          (decide (s.snap.phase = .writing ∨ s.snap.phase = .verifying) && decide (1 ≤ s.snap.changeCount)) }) ∧
    (s.phase ≠ .running → exec .pfwAssert s = .next { s with pins := { s.pins with pfwN := true } }) ∧
    (s.phase = .frozen → ∃ t, exec .pfwDeassert s = .next t ∧
      t = { s with phase := .running, ports := t.ports, accrual := t.accrual, pins := { s.pins with pfwN := false } } ∧
      (∀ q, t.ports.get q = { s.ports.get q with
        notices := if (s.ports.get q).attached then (s.ports.get q).notices.append (.system .frozenLeft)
          else (s.ports.get q).notices }) ∧
      t.accrual = { s.accrual with candidate :=
        s.accrual.candidate || decide (1 ≤ s.accrual.pendRun ∨ 1 ≤ s.accrual.pendPowered) }) ∧
    (s.phase ≠ .frozen → exec .pfwDeassert s = .next { s with pins := { s.pins with pfwN := false } })

/-! ### The memory link and the sequences of its clients -/

/-- R158, R162 to R166, R188, R189: a status read ends the ready wait when the busy bit is clear, and changes nothing of
either wait when it is set; then come the write enable and the command of the operation with its address, most significant
byte first, and for a program the 256 bytes of the page; the busy wait begins with its limit. R159, R168: bytes go most
significant bit first on MDO, with MCK low in the half in which MDO changes, and on MDI, which is sampled as MCK rises; MCS_N
is asserted and MCK goes on through the bytes sent and the bytes taken; MCS_N is deasserted and MCK and MDO are low whenever
no transaction is in progress, from the start of a device reset and as long as RESET_N is asserted. The level of MDO while
bytes are taken is a free value (log entry 26). -/
def Obligations.FlashTransactionsFollowTheOperation : Prop :=
  (∀ s : State, s.flashSignals none = ⟨false, false, false⟩ ∧
    (∀ moment, s.link.op = none ∨ s.pins.resetN = true → s.flashSignals moment = ⟨false, false, false⟩) ∧
    (∀ x n, s.transaction = some x → (n < 16 * (x.sent.length + x.taken) →
      (s.flashSignals (some n)).mcs = true ∧ (s.flashSignals (some n)).mck = decide (n % 2 = 1)) ∧
      (∀ i b j, x.sent[i]? = some b → j < 8 → n = 16 * i + 2 * j ∨ n = 16 * i + 2 * j + 1 →
        (s.flashSignals (some n)).mdo = b.getLsbD (7 - j)) ∧
      (16 * (x.sent.length + x.taken) ≤ n → s.flashSignals (some n) = ⟨false, false, false⟩)) ∧
    ∀ t moment, exec .deviceReset s = .next t → t.flashSignals moment = ⟨false, false, false⟩) ∧
  (∀ (x : FlashTransaction) (free : Nat) (mdi : List (Bool × Bool)), mdi.length = 8 * (x.sent.length + x.taken) →
    x.takenBits free (mdi.flatMap fun half => [half.1, half.2]) = (mdi.map Prod.snd).drop (8 * x.sent.length)) ∧
  (∀ bits, FlashTransaction.statusRead.command bits = statusReadOfBits bits ∧
    FlashTransaction.writeEnable.command bits = some .writeEnable ∧
    (∀ a, (FlashTransaction.sectorErase a).command bits = some .sectorEraseTransaction) ∧
    (∀ a data, (FlashTransaction.pageProgram a data).command bits = some .pageProgramTransaction) ∧
    ∀ a, (FlashTransaction.pageRead a).command bits = some (pageReadOfBits bits)) ∧
  (FlashTransaction.statusRead.taken = 1 ∧ FlashTransaction.writeEnable.taken = 0 ∧
    (∀ a, (FlashTransaction.sectorErase a).taken = 0 ∧ (FlashTransaction.pageRead a).taken = 256) ∧
    ∀ a data, (FlashTransaction.pageProgram a data).taken = 0) ∧
  (∀ (s : State) (o : LinkOp), s.pins.resetN = false → s.link.op = some o →
    (s.link.phase = .readyWait ∨ s.link.phase = .busyWait → s.transaction = some .statusRead) ∧
    (s.link.phase = .command → o.op.writes = true → s.link.writeEnabled = false → s.transaction = some .writeEnable) ∧
    (∀ k, s.link.phase = .command → s.link.writeEnabled = true → o.op = .erase k →
      ∃ a, s.transaction = some (.sectorErase a)) ∧
    (∀ n, s.link.phase = .command → s.link.writeEnabled = true → o.op = .program n →
      ∃ a data, s.transaction = some (.pageProgram a data)) ∧
    (∀ n, s.link.phase = .command → o.op = .read n → ∃ a, s.transaction = some (.pageRead a))) ∧
  (∀ (s t : State) (x : FlashTransaction) (bits : List Bool) (c : Instr), s.transaction = some x →
    x.command bits = some c → bits.length = 8 * x.taken → exec c s = .next t → t.link.mdo = x.sent) ∧
  (sentLevels [] = [] ∧ (∀ b bytes, sentLevels (b :: bytes) =
    ([7, 6, 5, 4, 3, 2, 1, 0].flatMap fun i => [⟨true, false, b.getLsbD i⟩, ⟨true, true, b.getLsbD i⟩]) ++
      sentLevels bytes)) ∧
  (∀ status : Byte, statusReadOfBits ([7, 6, 5, 4, 3, 2, 1, 0].map status.getLsbD) = some (.statusRead status)) ∧
  (∀ data : List Byte, pageReadOfBits (data.flatMap fun b => [7, 6, 5, 4, 3, 2, 1, 0].map b.getLsbD) = .pageRead data) ∧
  ∀ (s : State) (o : LinkOp) (base : Nat), s.link.op = some o → base = (match o.bank with | .a => 0 | .b => 0x4000) →
    (∀ status : Byte, s.link.phase = .readyWait → status.getLsbD 0 = false → exec (.statusRead status) s =
      .next { s with link := { s.link with phase := .command, timer := none, mdo := [0x05] } }) ∧
    (∀ status : Byte, s.link.phase = .readyWait ∨ s.link.phase = .busyWait → status.getLsbD 0 = true →
      exec (.statusRead status) s = .next { s with link := { s.link with mdo := [0x05] } }) ∧
    (s.link.phase = .command → o.op.writes = true → s.link.writeEnabled = false → exec .writeEnable s =
      .next { s with link := { s.link with writeEnabled := true, mdo := [0x06] } }) ∧
    (∀ k address, s.link.phase = .command → o.op = .erase k → s.link.writeEnabled = true → k ≤ 3 →
      address = base + k * 0x1000 → exec .sectorEraseTransaction s =
      .next { s with link := { s.link with
        phase := .busyWait, timer := some ⟨0, 13108⟩
        mdo := [0x20, byteOf (address / 65536), byteOf (address / 256), byteOf address] } }) ∧
    (∀ n address image, s.link.phase = .command → o.op = .program n → s.link.writeEnabled = true → n ≤ 32 →
      address = base + n * 0x100 → s.snap.buffer = some image → exec .pageProgramTransaction s =
      .next { s with link := { s.link with
        phase := .busyWait, timer := some ⟨0, 99⟩
        mdo := [0x02, byteOf (address / 65536), byteOf (address / 256), byteOf address] ++
          if n = 0 then image.header else (image.body.drop (256 * (n - 1))).take 256 } }) ∧
    (∀ n address data t, s.link.phase = .command → o.op = .read n → n ≤ 32 → address = base + n * 0x100 →
      data.length = 256 → exec (.pageRead data) s = .next t →
      t.link.mdo = [0x03, byteOf (address / 65536), byteOf (address / 256), byteOf address])

/-- R147, R148: the sequence of a snapshot: four erases, body pages 1 to 32, the header page, then the reads of pages 1 to
32 and of the header, each operation handed over at the completion of the one before, a read only when its page equals
the buffer's. -/
def Obligations.SnapshotWritesThenVerifiesInOrder : Prop :=
  ∀ (s : State) (o : LinkOp) (next : FlashOp), s.link.op = some o → o.client = .snapshot →
    (∀ status : Byte, s.link.phase = .busyWait → status.getLsbD 0 = false →
      (o.op = .erase 0 ∧ next = .erase 1 ∨ o.op = .erase 1 ∧ next = .erase 2 ∨ o.op = .erase 2 ∧ next = .erase 3 ∨
       o.op = .erase 3 ∧ next = .program 1 ∨ (∃ n, 1 ≤ n ∧ n < 32 ∧ o.op = .program n ∧ next = .program (n + 1)) ∨
       o.op = .program 32 ∧ next = .program 0 ∨ o.op = .program 0 ∧ next = .read 1) →
      ∃ t, exec (.statusRead status) s = .next t ∧ t = { s with snap := t.snap, link := t.link } ∧
        t.snap = { s.snap with phase := if o.op = .program 0 then .verifying else s.snap.phase } ∧
        t.link.phase = .readyWait ∧ t.link.op = some ⟨next, s.snap.target, .snapshot⟩ ∧
        t.link.timer = some ⟨0, 13108⟩) ∧
    (∀ n image data, s.link.phase = .command → o.op = .read n → 1 ≤ n → n ≤ 32 → s.snap.buffer = some image →
      data.length = 256 → data = (image.body.drop (256 * (n - 1))).take 256 →
      next = (if n = 32 then .read 0 else .read (n + 1)) →
      ∃ t, exec (.pageRead data) s = .next t ∧ t = { s with link := t.link } ∧
        t.link.phase = .readyWait ∧ t.link.op = some ⟨next, s.snap.target, .snapshot⟩ ∧
        t.link.timer = some ⟨0, 13108⟩)

/-- R148, R149: the last verify read, with the header equal to the buffer's and the check word confirmed, is the success of
the snapshot: the target bank is the newest completed one, and each SAVE bound to the snapshot is answered OK with the
generation and the captured amount. -/
def Obligations.SnapshotSucceedsAtTheHeaderRead : Prop :=
  ∀ (s : State) (bank : Bank) (image : Image), s.link.phase = .command →
    s.link.op = some ⟨.read 0, bank, .snapshot⟩ → s.snap.buffer = some image → image.header.length = 256 →
    (wordSum image.body + fieldAt image.header 12 4) % 4294967296 = 0 → PortsSound s →
    ∃ t, exec (.pageRead image.header) s = .next t ∧
      SnapshotEnded s t .ok (leBytes 4 (fieldAt image.header 6 4) ++ leBytes 4 s.snap.captured)
        PortState.notices ∧
      t.snap.newestBank = some s.snap.target ∧ t.snap.newestGen = fieldAt image.header 6 4 ∧
      t.snap.changeCount = s.snap.changeCount ∧ t.snap.buffer = s.snap.buffer ∧ t.snap.target = s.snap.target

/-- R148, R150, R162, R166, R167: a timeout of an operation of the snapshot unit, or a page read back that differs from the
buffer's, fails the attempt: the first is retried from the first erase with the same buffer; the second fails the snapshot,
which restores the captured amount and answers each SAVE bound to it SNAPSHOT_FAILED, with one notice. That a timeout is
taken whatever its timer counts is the model's choice (log entry 6). -/
def Obligations.FailedAttemptRetriesOnceThenFails : Prop :=
  ∀ (s : State) (o : LinkOp) (c : Instr), s.link.op = some o → o.client = .snapshot →
    (c = .readyWaitTimeout ∧ s.link.phase = .readyWait ∨ c = .busyWaitTimeout ∧ s.link.phase = .busyWait ∨
     ∃ n data image, c = .pageRead data ∧ s.link.phase = .command ∧ o.op = .read n ∧ data.length = 256 ∧
       s.snap.buffer = some image ∧
       data ≠ (if n = 0 then image.header else (image.body.drop (256 * (n - 1))).take 256)) →
    (s.snap.attempt = .first → ∃ t, exec c s = .next t ∧ t = { s with snap := t.snap, link := t.link } ∧
      t.snap = { s.snap with attempt := .second, phase := .writing } ∧
      t.link.phase = .readyWait ∧ t.link.op = some ⟨.erase 0, s.snap.target, .snapshot⟩ ∧
      t.link.timer = some ⟨0, 13108⟩) ∧
    (s.snap.attempt = .second → PortsSound s → ∃ t, exec c s = .next t ∧
      SnapshotEnded s t .snapshotFailed (leBytes 4 s.snap.newestGen) (fun ps =>
        if ps.attached then ps.notices.append (.system .snapshotFailed) else ps.notices) ∧
      t.snap.changeCount = min (s.snap.changeCount + s.snap.captured) 4294967295 ∧
      t.snap.newestBank = s.snap.newestBank ∧ t.snap.newestGen = s.snap.newestGen ∧ t.snap.target = s.snap.target)

/-! ### Start-up -/

/-- R171, R172, R167: the headers are read from bank A, then from bank B, and judged; a failed read is IMPLAUSIBLE; then
the try order follows from the two verdicts, the newer generation first and bank A where neither is newer. That the timeout
of a header read is taken whatever its timer counts is the model's choice (log entry 6). -/
def Obligations.HeadersFormTheTryOrder : Prop :=
  ∀ (s : State) (c : Instr) (bank : Bank) (v : HeaderVerdict) (copy : Option (List Byte)),
    s.link.op = some ⟨.read 0, bank, .startup⟩ →
    ((∃ data, c = .pageRead data ∧ s.link.phase = .command ∧ data.length = 256 ∧ copy = some data ∧
        v = if fieldAt data 0 4 = 0x43555A56 ∧ fieldAt data 4 2 = 1 ∧ fieldAt data 10 2 = 8192 ∧ fieldAt data 6 4 ≠ 0
          then .plausible (fieldAt data 6 4) else .implausible) ∨
     c = .readyWaitTimeout ∧ s.link.phase = .readyWait ∧ copy = none ∧ v = .implausible) →
    (s.startup.step = .headerA → ∃ t, exec c s = .next t ∧ t = { s with startup := t.startup, link := t.link } ∧
      t.startup = { s.startup with verdictA := some v, copyA := copy, step := .headerB } ∧
      t.link.phase = .readyWait ∧ t.link.op = some ⟨.read 0, .b, .startup⟩ ∧ t.link.timer = some ⟨0, 13108⟩) ∧
    (∀ va order, s.startup.step = .headerB → s.startup.verdictA = some va → s.startup.failedNewer = false →
      (va = .implausible ∧ v = .implausible ∧ order = [] ∨
       (∃ a, va = .plausible a) ∧ v = .implausible ∧ order = [.a] ∨
       va = .implausible ∧ (∃ b, v = .plausible b) ∧ order = [.b] ∨
       ∃ a b, va = .plausible a ∧ v = .plausible b ∧ a < 4294967296 ∧ b < 4294967296 ∧
         order = if 1 ≤ (b + 4294967296 - a) % 4294967296 ∧ (b + 4294967296 - a) % 4294967296 ≤ 2147483647 then [.b, .a]
           else [.a, .b]) →
      ∃ t, exec c s = .next t ∧
        StartUpTries s t order false (fun x => match x with | .a => s.startup.copyA | .b => copy))

/-- R173 to R176: the body pages of the bank under test are read in order and summed; after page 32 the bank is loaded, in
one event, when the check word confirms the sum and the content check passes; otherwise, or when a read fails, the bank
leaves the try order and the next one is tried, or start-up ends BLANK. That the timeout of a body read is taken whatever its
timer counts is the model's choice (log entry 6). -/
def Obligations.StartUpLoadsTheProvedBank : Prop :=
  ∀ (s : State) (bank : Bank) (n : Nat) (image : Image), s.link.op = some ⟨.read n, bank, .startup⟩ →
    s.startup.step = .body → s.startup.underTest = some bank → s.startup.buffer = some image →
    (∀ data, s.link.phase = .command → data.length = 256 → n < 32 → ∃ t, exec (.pageRead data) s = .next t ∧
      t = { s with startup := t.startup, link := t.link } ∧
      t.startup = { s.startup with
        buffer := some ⟨image.header, image.body ++ data⟩
        runningSum := (s.startup.runningSum + wordSum data) % 4294967296 } ∧
      t.link.phase = .readyWait ∧ t.link.op = some ⟨.read (n + 1), bank, .startup⟩ ∧
      t.link.timer = some ⟨0, 13108⟩) ∧
    (∀ data passes, s.link.phase = .command → data.length = 256 → n = 32 →
      passes = decide ((s.startup.runningSum + wordSum data + fieldAt image.header 12 4) % 4294967296 = 0) →
      (∀ table pool, passes = true → loadImage ⟨image.header, image.body ++ data⟩ = some (table, pool) →
        ∃ t, exec (.pageRead data) s = .next t ∧
          StartUpEnds s t table pool (some bank) (fieldAt image.header 6 4) (fieldAt image.header 16 2)
            (if s.startup.failedNewer then .loadedOlder else .loadedNewer)) ∧
      (passes = false ∨ loadImage ⟨image.header, image.body ++ data⟩ = none →
        ∃ t, exec (.pageRead data) s = .next t ∧
          StartUpTries s t s.startup.tryOrder.tail
            (s.startup.failedNewer || decide (s.startup.tryOrder.length = 2)) s.startup.copyOf)) ∧
    (s.link.phase = .readyWait → ∃ t, exec .readyWaitTimeout s = .next t ∧
      StartUpTries s t s.startup.tryOrder.tail
        (s.startup.failedNewer || decide (s.startup.tryOrder.length = 2)) s.startup.copyOf)

/-- R155: while the phase is FROZEN no command but a device reset changes the pool or anything of an entry but its
override; while it stays STARTING the table is empty. -/
def Obligations.FrozenTableStands : Prop :=
  ∀ (c : Instr) (s t : State), Sound s → exec c s = .next t →
    (s.phase = .frozen → c ≠ .deviceReset →
      t.pool = s.pool ∧
        t.table.map (fun e => { e with override := .none }) = s.table.map fun e => { e with override := .none }) ∧
    (s.phase = .starting → t.phase = .starting → t.table = [])

/-- R145, R148, R171, R173, R174, R176: a table captured into an image and loaded from it is the table that was captured,
with every override NONE: the header is PLAUSIBLE, the check word confirms the body, and the content check passes. -/
def Obligations.CapturedImageLoadsBack : Prop :=
  ∀ (s : State) (generation interval : Nat), TableSound s → EntriesSound s → PoolSound s →
    1 ≤ generation → generation ≤ 4294967295 → interval ≤ 1440 →
    judgeHeader (captureImage s.table s.pool generation interval).header = .plausible generation ∧
    checkPasses (captureImage s.table s.pool generation interval).header
      (captureImage s.table s.pool generation interval).body = true ∧
    headerInterval (captureImage s.table s.pool generation interval).header = interval ∧
    loadImage (captureImage s.table s.pool generation interval) =
      some (s.table.map fun e => { e with override := .none }, s.pool)

/-! ### What every step keeps -/

/-- R169 and the reset values of every block: the state right after the device reset is sound. -/
def Obligations.ResetIsSound : Prop := Sound State.reset

/-- R60: URG_N and PLN_N match the published verdicts of the table after every step: URG_N is asserted exactly while an
URGENT entry publishes TRIPPED or HELD, PLN_N exactly while a PLANNED one publishes TRIPPED. R101: in every state ATN_N of a
port is asserted exactly while the port is attached and its queue holds an undelivered notice, its lost flag is set, or a
slot of it is ANSWERED. -/
def Obligations.EveryStepKeepsTheLines : Prop :=
  (∀ s t : State, LinesFollow s → step s = .next t → LinesFollow t) ∧
  (∀ table : List Entry,
    (urgCondition table = true ↔ ∃ e ∈ table, e.cls = .urgent ∧ (e.published = .tripped ∨ e.published = .held)) ∧
    (plnCondition table = true ↔ ∃ e ∈ table, e.cls = .planned ∧ e.published = .tripped)) ∧
  ∀ (s : State) (p : Port), s.atnAsserted p = true ↔
    (s.ports.get p).attached = true ∧
      ((∃ n ∈ (s.ports.get p).notices.queue, n.delivered = false) ∨ (s.ports.get p).notices.lost = true ∨
        ∃ k a, (s.ports.get p).slots.get k = .answered a)

/-- R55, R104, R105: without a lease no override stands and the lease unit is at rest; with one, its holder is attached and
its remaining time lies in 1..duration. Every step keeps it. -/
def Obligations.EveryStepKeepsTheLease : Prop :=
  ∀ s t : State, LeaseSound s → step s = .next t → LeaseSound t

/-- R1, R3, R4, R7, R25, R30, R34, R40, R41, R45, R70: the table's size and ids, the ranges of every entry and the
accounting of the epoch pool. Every step keeps them. -/
def Obligations.EveryStepKeepsTheTableAndThePool : Prop :=
  ∀ s t : State, TableSound s ∧ EntriesSound s ∧ PoolSound s → step s = .next t →
    TableSound t ∧ EntriesSound t ∧ PoolSound t

/-- R84, R90, R91: the limits and the order of every notice queue and watch list. Every step keeps them. -/
def Obligations.EveryStepKeepsTheQueues : Prop :=
  ∀ s t : State, NoticesSound s → step s = .next t → NoticesSound t

/-- All of it at once: lines, lease, table, entries, pool, slots and orders of the ports (R119, R125 to R127, R135, R142),
queues, device phase (R12, R156), the start-up step (R176), snapshot unit and memory link (R140, R146, R151, R160, R161),
the snapshot unit at its reset values throughout STARTING (R138), the counts of the accrual block (R77) and of the snapshot
unit (R138, R139), the timers (R143, R162), watch lists (R84, R94). -/
def Obligations.EveryStepKeepsSoundness : Prop :=
  ∀ s t : State, Sound s → step s = .next t → Sound t
end

