-- ==== Sys2Proof/Laws/State.lean ====
section
/-!
SUPPORT. What each named update of the state leaves unchanged: one lemma per field per update, so that no later proof
unfolds a record update. The lemmas of the updates that choose (publish, endLease, ...) stand behind those of the plain ones.
-/
namespace Sys2Proof.Machine

/-! ### Plain updates -/

@[simp] theorem State.modifyPort_phase (s : State) (p : Port) (f : PortState → PortState) : (s.modifyPort p f).phase = s.phase := rfl
@[simp] theorem State.modifyPort_lastServed (s : State) (p : Port) (f : PortState → PortState) : (s.modifyPort p f).lastServed = s.lastServed := rfl
@[simp] theorem State.modifyPort_table (s : State) (p : Port) (f : PortState → PortState) : (s.modifyPort p f).table = s.table := rfl
@[simp] theorem State.modifyPort_pool (s : State) (p : Port) (f : PortState → PortState) : (s.modifyPort p f).pool = s.pool := rfl
@[simp] theorem State.modifyPort_urg (s : State) (p : Port) (f : PortState → PortState) : (s.modifyPort p f).urg = s.urg := rfl
@[simp] theorem State.modifyPort_pln (s : State) (p : Port) (f : PortState → PortState) : (s.modifyPort p f).pln = s.pln := rfl
@[simp] theorem State.modifyPort_lease (s : State) (p : Port) (f : PortState → PortState) : (s.modifyPort p f).lease = s.lease := rfl
@[simp] theorem State.modifyPort_accrual (s : State) (p : Port) (f : PortState → PortState) : (s.modifyPort p f).accrual = s.accrual := rfl
@[simp] theorem State.modifyPort_snap (s : State) (p : Port) (f : PortState → PortState) : (s.modifyPort p f).snap = s.snap := rfl
@[simp] theorem State.modifyPort_link (s : State) (p : Port) (f : PortState → PortState) : (s.modifyPort p f).link = s.link := rfl
@[simp] theorem State.modifyPort_startup (s : State) (p : Port) (f : PortState → PortState) : (s.modifyPort p f).startup = s.startup := rfl
@[simp] theorem State.modifyPort_pins (s : State) (p : Port) (f : PortState → PortState) : (s.modifyPort p f).pins = s.pins := rfl
@[simp] theorem State.modifyPort_freeIndex (s : State) (p : Port) (f : PortState → PortState) : (s.modifyPort p f).freeIndex = s.freeIndex := rfl
@[simp] theorem State.modifyPort_pending (s : State) (p : Port) (f : PortState → PortState) : (s.modifyPort p f).pending = s.pending := rfl
@[simp] theorem State.addChanges_phase (s : State) (n : Nat) : (s.addChanges n).phase = s.phase := rfl
@[simp] theorem State.addChanges_lastServed (s : State) (n : Nat) : (s.addChanges n).lastServed = s.lastServed := rfl
@[simp] theorem State.addChanges_table (s : State) (n : Nat) : (s.addChanges n).table = s.table := rfl
@[simp] theorem State.addChanges_pool (s : State) (n : Nat) : (s.addChanges n).pool = s.pool := rfl
@[simp] theorem State.addChanges_urg (s : State) (n : Nat) : (s.addChanges n).urg = s.urg := rfl
@[simp] theorem State.addChanges_pln (s : State) (n : Nat) : (s.addChanges n).pln = s.pln := rfl
@[simp] theorem State.addChanges_ports (s : State) (n : Nat) : (s.addChanges n).ports = s.ports := rfl
@[simp] theorem State.addChanges_lease (s : State) (n : Nat) : (s.addChanges n).lease = s.lease := rfl
@[simp] theorem State.addChanges_accrual (s : State) (n : Nat) : (s.addChanges n).accrual = s.accrual := rfl
@[simp] theorem State.addChanges_link (s : State) (n : Nat) : (s.addChanges n).link = s.link := rfl
@[simp] theorem State.addChanges_startup (s : State) (n : Nat) : (s.addChanges n).startup = s.startup := rfl
@[simp] theorem State.addChanges_pins (s : State) (n : Nat) : (s.addChanges n).pins = s.pins := rfl
@[simp] theorem State.addChanges_freeIndex (s : State) (n : Nat) : (s.addChanges n).freeIndex = s.freeIndex := rfl
@[simp] theorem State.addChanges_pending (s : State) (n : Nat) : (s.addChanges n).pending = s.pending := rfl
@[simp] theorem State.refreshLines_phase (s : State) : (s.refreshLines).phase = s.phase := rfl
@[simp] theorem State.refreshLines_lastServed (s : State) : (s.refreshLines).lastServed = s.lastServed := rfl
@[simp] theorem State.refreshLines_table (s : State) : (s.refreshLines).table = s.table := rfl
@[simp] theorem State.refreshLines_pool (s : State) : (s.refreshLines).pool = s.pool := rfl
@[simp] theorem State.refreshLines_ports (s : State) : (s.refreshLines).ports = s.ports := rfl
@[simp] theorem State.refreshLines_lease (s : State) : (s.refreshLines).lease = s.lease := rfl
@[simp] theorem State.refreshLines_accrual (s : State) : (s.refreshLines).accrual = s.accrual := rfl
@[simp] theorem State.refreshLines_snap (s : State) : (s.refreshLines).snap = s.snap := rfl
@[simp] theorem State.refreshLines_link (s : State) : (s.refreshLines).link = s.link := rfl
@[simp] theorem State.refreshLines_startup (s : State) : (s.refreshLines).startup = s.startup := rfl
@[simp] theorem State.refreshLines_pins (s : State) : (s.refreshLines).pins = s.pins := rfl
@[simp] theorem State.refreshLines_freeIndex (s : State) : (s.refreshLines).freeIndex = s.freeIndex := rfl
@[simp] theorem State.refreshLines_pending (s : State) : (s.refreshLines).pending = s.pending := rfl
@[simp] theorem State.notifyAttached_phase (s : State) (f : NoticeUnit → NoticeUnit) : (s.notifyAttached f).phase = s.phase := rfl
@[simp] theorem State.notifyAttached_lastServed (s : State) (f : NoticeUnit → NoticeUnit) : (s.notifyAttached f).lastServed = s.lastServed := rfl
@[simp] theorem State.notifyAttached_table (s : State) (f : NoticeUnit → NoticeUnit) : (s.notifyAttached f).table = s.table := rfl
@[simp] theorem State.notifyAttached_pool (s : State) (f : NoticeUnit → NoticeUnit) : (s.notifyAttached f).pool = s.pool := rfl
@[simp] theorem State.notifyAttached_urg (s : State) (f : NoticeUnit → NoticeUnit) : (s.notifyAttached f).urg = s.urg := rfl
@[simp] theorem State.notifyAttached_pln (s : State) (f : NoticeUnit → NoticeUnit) : (s.notifyAttached f).pln = s.pln := rfl
@[simp] theorem State.notifyAttached_lease (s : State) (f : NoticeUnit → NoticeUnit) : (s.notifyAttached f).lease = s.lease := rfl
@[simp] theorem State.notifyAttached_accrual (s : State) (f : NoticeUnit → NoticeUnit) : (s.notifyAttached f).accrual = s.accrual := rfl
@[simp] theorem State.notifyAttached_snap (s : State) (f : NoticeUnit → NoticeUnit) : (s.notifyAttached f).snap = s.snap := rfl
@[simp] theorem State.notifyAttached_link (s : State) (f : NoticeUnit → NoticeUnit) : (s.notifyAttached f).link = s.link := rfl
@[simp] theorem State.notifyAttached_startup (s : State) (f : NoticeUnit → NoticeUnit) : (s.notifyAttached f).startup = s.startup := rfl
@[simp] theorem State.notifyAttached_pins (s : State) (f : NoticeUnit → NoticeUnit) : (s.notifyAttached f).pins = s.pins := rfl
@[simp] theorem State.notifyAttached_freeIndex (s : State) (f : NoticeUnit → NoticeUnit) : (s.notifyAttached f).freeIndex = s.freeIndex := rfl
@[simp] theorem State.notifyAttached_pending (s : State) (f : NoticeUnit → NoticeUnit) : (s.notifyAttached f).pending = s.pending := rfl
@[simp] theorem State.verdictEvent_phase (s : State) (ev : VerdictEvent) : (s.verdictEvent ev).phase = s.phase := rfl
@[simp] theorem State.verdictEvent_lastServed (s : State) (ev : VerdictEvent) : (s.verdictEvent ev).lastServed = s.lastServed := rfl
@[simp] theorem State.verdictEvent_table (s : State) (ev : VerdictEvent) : (s.verdictEvent ev).table = s.table := rfl
@[simp] theorem State.verdictEvent_pool (s : State) (ev : VerdictEvent) : (s.verdictEvent ev).pool = s.pool := rfl
@[simp] theorem State.verdictEvent_urg (s : State) (ev : VerdictEvent) : (s.verdictEvent ev).urg = s.urg := rfl
@[simp] theorem State.verdictEvent_pln (s : State) (ev : VerdictEvent) : (s.verdictEvent ev).pln = s.pln := rfl
@[simp] theorem State.verdictEvent_lease (s : State) (ev : VerdictEvent) : (s.verdictEvent ev).lease = s.lease := rfl
@[simp] theorem State.verdictEvent_accrual (s : State) (ev : VerdictEvent) : (s.verdictEvent ev).accrual = s.accrual := rfl
@[simp] theorem State.verdictEvent_snap (s : State) (ev : VerdictEvent) : (s.verdictEvent ev).snap = s.snap := rfl
@[simp] theorem State.verdictEvent_link (s : State) (ev : VerdictEvent) : (s.verdictEvent ev).link = s.link := rfl
@[simp] theorem State.verdictEvent_startup (s : State) (ev : VerdictEvent) : (s.verdictEvent ev).startup = s.startup := rfl
@[simp] theorem State.verdictEvent_pins (s : State) (ev : VerdictEvent) : (s.verdictEvent ev).pins = s.pins := rfl
@[simp] theorem State.verdictEvent_freeIndex (s : State) (ev : VerdictEvent) : (s.verdictEvent ev).freeIndex = s.freeIndex := rfl
@[simp] theorem State.verdictEvent_pending (s : State) (ev : VerdictEvent) : (s.verdictEvent ev).pending = s.pending := rfl
@[simp] theorem State.systemEvent_phase (s : State) (ev : SystemEvent) : (s.systemEvent ev).phase = s.phase := rfl
@[simp] theorem State.systemEvent_lastServed (s : State) (ev : SystemEvent) : (s.systemEvent ev).lastServed = s.lastServed := rfl
@[simp] theorem State.systemEvent_table (s : State) (ev : SystemEvent) : (s.systemEvent ev).table = s.table := rfl
@[simp] theorem State.systemEvent_pool (s : State) (ev : SystemEvent) : (s.systemEvent ev).pool = s.pool := rfl
@[simp] theorem State.systemEvent_urg (s : State) (ev : SystemEvent) : (s.systemEvent ev).urg = s.urg := rfl
@[simp] theorem State.systemEvent_pln (s : State) (ev : SystemEvent) : (s.systemEvent ev).pln = s.pln := rfl
@[simp] theorem State.systemEvent_lease (s : State) (ev : SystemEvent) : (s.systemEvent ev).lease = s.lease := rfl
@[simp] theorem State.systemEvent_accrual (s : State) (ev : SystemEvent) : (s.systemEvent ev).accrual = s.accrual := rfl
@[simp] theorem State.systemEvent_snap (s : State) (ev : SystemEvent) : (s.systemEvent ev).snap = s.snap := rfl
@[simp] theorem State.systemEvent_link (s : State) (ev : SystemEvent) : (s.systemEvent ev).link = s.link := rfl
@[simp] theorem State.systemEvent_startup (s : State) (ev : SystemEvent) : (s.systemEvent ev).startup = s.startup := rfl
@[simp] theorem State.systemEvent_pins (s : State) (ev : SystemEvent) : (s.systemEvent ev).pins = s.pins := rfl
@[simp] theorem State.systemEvent_freeIndex (s : State) (ev : SystemEvent) : (s.systemEvent ev).freeIndex = s.freeIndex := rfl
@[simp] theorem State.systemEvent_pending (s : State) (ev : SystemEvent) : (s.systemEvent ev).pending = s.pending := rfl
@[simp] theorem State.retirementEvent_phase (s : State) (id score : Nat) : (s.retirementEvent id score).phase = s.phase := rfl
@[simp] theorem State.retirementEvent_lastServed (s : State) (id score : Nat) : (s.retirementEvent id score).lastServed = s.lastServed := rfl
@[simp] theorem State.retirementEvent_table (s : State) (id score : Nat) : (s.retirementEvent id score).table = s.table := rfl
@[simp] theorem State.retirementEvent_pool (s : State) (id score : Nat) : (s.retirementEvent id score).pool = s.pool := rfl
@[simp] theorem State.retirementEvent_urg (s : State) (id score : Nat) : (s.retirementEvent id score).urg = s.urg := rfl
@[simp] theorem State.retirementEvent_pln (s : State) (id score : Nat) : (s.retirementEvent id score).pln = s.pln := rfl
@[simp] theorem State.retirementEvent_lease (s : State) (id score : Nat) : (s.retirementEvent id score).lease = s.lease := rfl
@[simp] theorem State.retirementEvent_accrual (s : State) (id score : Nat) : (s.retirementEvent id score).accrual = s.accrual := rfl
@[simp] theorem State.retirementEvent_snap (s : State) (id score : Nat) : (s.retirementEvent id score).snap = s.snap := rfl
@[simp] theorem State.retirementEvent_link (s : State) (id score : Nat) : (s.retirementEvent id score).link = s.link := rfl
@[simp] theorem State.retirementEvent_startup (s : State) (id score : Nat) : (s.retirementEvent id score).startup = s.startup := rfl
@[simp] theorem State.retirementEvent_pins (s : State) (id score : Nat) : (s.retirementEvent id score).pins = s.pins := rfl
@[simp] theorem State.retirementEvent_freeIndex (s : State) (id score : Nat) : (s.retirementEvent id score).freeIndex = s.freeIndex := rfl
@[simp] theorem State.retirementEvent_pending (s : State) (id score : Nat) : (s.retirementEvent id score).pending = s.pending := rfl
@[simp] theorem State.modifyNotices_phase (s : State) (p : Port) (f : NoticeUnit → NoticeUnit) : (s.modifyNotices p f).phase = s.phase := rfl
@[simp] theorem State.modifyNotices_lastServed (s : State) (p : Port) (f : NoticeUnit → NoticeUnit) : (s.modifyNotices p f).lastServed = s.lastServed := rfl
@[simp] theorem State.modifyNotices_table (s : State) (p : Port) (f : NoticeUnit → NoticeUnit) : (s.modifyNotices p f).table = s.table := rfl
@[simp] theorem State.modifyNotices_pool (s : State) (p : Port) (f : NoticeUnit → NoticeUnit) : (s.modifyNotices p f).pool = s.pool := rfl
@[simp] theorem State.modifyNotices_urg (s : State) (p : Port) (f : NoticeUnit → NoticeUnit) : (s.modifyNotices p f).urg = s.urg := rfl
@[simp] theorem State.modifyNotices_pln (s : State) (p : Port) (f : NoticeUnit → NoticeUnit) : (s.modifyNotices p f).pln = s.pln := rfl
@[simp] theorem State.modifyNotices_lease (s : State) (p : Port) (f : NoticeUnit → NoticeUnit) : (s.modifyNotices p f).lease = s.lease := rfl
@[simp] theorem State.modifyNotices_accrual (s : State) (p : Port) (f : NoticeUnit → NoticeUnit) : (s.modifyNotices p f).accrual = s.accrual := rfl
@[simp] theorem State.modifyNotices_snap (s : State) (p : Port) (f : NoticeUnit → NoticeUnit) : (s.modifyNotices p f).snap = s.snap := rfl
@[simp] theorem State.modifyNotices_link (s : State) (p : Port) (f : NoticeUnit → NoticeUnit) : (s.modifyNotices p f).link = s.link := rfl
@[simp] theorem State.modifyNotices_startup (s : State) (p : Port) (f : NoticeUnit → NoticeUnit) : (s.modifyNotices p f).startup = s.startup := rfl
@[simp] theorem State.modifyNotices_pins (s : State) (p : Port) (f : NoticeUnit → NoticeUnit) : (s.modifyNotices p f).pins = s.pins := rfl
@[simp] theorem State.modifyNotices_freeIndex (s : State) (p : Port) (f : NoticeUnit → NoticeUnit) : (s.modifyNotices p f).freeIndex = s.freeIndex := rfl
@[simp] theorem State.modifyNotices_pending (s : State) (p : Port) (f : NoticeUnit → NoticeUnit) : (s.modifyNotices p f).pending = s.pending := rfl
@[simp] theorem State.countBadFrame_phase (s : State) (p : Port) : (s.countBadFrame p).phase = s.phase := rfl
@[simp] theorem State.countBadFrame_lastServed (s : State) (p : Port) : (s.countBadFrame p).lastServed = s.lastServed := rfl
@[simp] theorem State.countBadFrame_table (s : State) (p : Port) : (s.countBadFrame p).table = s.table := rfl
@[simp] theorem State.countBadFrame_pool (s : State) (p : Port) : (s.countBadFrame p).pool = s.pool := rfl
@[simp] theorem State.countBadFrame_urg (s : State) (p : Port) : (s.countBadFrame p).urg = s.urg := rfl
@[simp] theorem State.countBadFrame_pln (s : State) (p : Port) : (s.countBadFrame p).pln = s.pln := rfl
@[simp] theorem State.countBadFrame_lease (s : State) (p : Port) : (s.countBadFrame p).lease = s.lease := rfl
@[simp] theorem State.countBadFrame_accrual (s : State) (p : Port) : (s.countBadFrame p).accrual = s.accrual := rfl
@[simp] theorem State.countBadFrame_snap (s : State) (p : Port) : (s.countBadFrame p).snap = s.snap := rfl
@[simp] theorem State.countBadFrame_link (s : State) (p : Port) : (s.countBadFrame p).link = s.link := rfl
@[simp] theorem State.countBadFrame_startup (s : State) (p : Port) : (s.countBadFrame p).startup = s.startup := rfl
@[simp] theorem State.countBadFrame_pins (s : State) (p : Port) : (s.countBadFrame p).pins = s.pins := rfl
@[simp] theorem State.countBadFrame_freeIndex (s : State) (p : Port) : (s.countBadFrame p).freeIndex = s.freeIndex := rfl
@[simp] theorem State.countBadFrame_pending (s : State) (p : Port) : (s.countBadFrame p).pending = s.pending := rfl
@[simp] theorem State.handOp_phase (s : State) (op : FlashOp) (bank : Bank) (c : Client) : (s.handOp op bank c).phase = s.phase := rfl
@[simp] theorem State.handOp_lastServed (s : State) (op : FlashOp) (bank : Bank) (c : Client) : (s.handOp op bank c).lastServed = s.lastServed := rfl
@[simp] theorem State.handOp_table (s : State) (op : FlashOp) (bank : Bank) (c : Client) : (s.handOp op bank c).table = s.table := rfl
@[simp] theorem State.handOp_pool (s : State) (op : FlashOp) (bank : Bank) (c : Client) : (s.handOp op bank c).pool = s.pool := rfl
@[simp] theorem State.handOp_urg (s : State) (op : FlashOp) (bank : Bank) (c : Client) : (s.handOp op bank c).urg = s.urg := rfl
@[simp] theorem State.handOp_pln (s : State) (op : FlashOp) (bank : Bank) (c : Client) : (s.handOp op bank c).pln = s.pln := rfl
@[simp] theorem State.handOp_ports (s : State) (op : FlashOp) (bank : Bank) (c : Client) : (s.handOp op bank c).ports = s.ports := rfl
@[simp] theorem State.handOp_lease (s : State) (op : FlashOp) (bank : Bank) (c : Client) : (s.handOp op bank c).lease = s.lease := rfl
@[simp] theorem State.handOp_accrual (s : State) (op : FlashOp) (bank : Bank) (c : Client) : (s.handOp op bank c).accrual = s.accrual := rfl
@[simp] theorem State.handOp_snap (s : State) (op : FlashOp) (bank : Bank) (c : Client) : (s.handOp op bank c).snap = s.snap := rfl
@[simp] theorem State.handOp_startup (s : State) (op : FlashOp) (bank : Bank) (c : Client) : (s.handOp op bank c).startup = s.startup := rfl
@[simp] theorem State.handOp_pins (s : State) (op : FlashOp) (bank : Bank) (c : Client) : (s.handOp op bank c).pins = s.pins := rfl
@[simp] theorem State.handOp_freeIndex (s : State) (op : FlashOp) (bank : Bank) (c : Client) : (s.handOp op bank c).freeIndex = s.freeIndex := rfl
@[simp] theorem State.handOp_pending (s : State) (op : FlashOp) (bank : Bank) (c : Client) : (s.handOp op bank c).pending = s.pending := rfl
@[simp] theorem State.linkIdle_phase (s : State) : (s.linkIdle).phase = s.phase := rfl
@[simp] theorem State.linkIdle_lastServed (s : State) : (s.linkIdle).lastServed = s.lastServed := rfl
@[simp] theorem State.linkIdle_table (s : State) : (s.linkIdle).table = s.table := rfl
@[simp] theorem State.linkIdle_pool (s : State) : (s.linkIdle).pool = s.pool := rfl
@[simp] theorem State.linkIdle_urg (s : State) : (s.linkIdle).urg = s.urg := rfl
@[simp] theorem State.linkIdle_pln (s : State) : (s.linkIdle).pln = s.pln := rfl
@[simp] theorem State.linkIdle_ports (s : State) : (s.linkIdle).ports = s.ports := rfl
@[simp] theorem State.linkIdle_lease (s : State) : (s.linkIdle).lease = s.lease := rfl
@[simp] theorem State.linkIdle_accrual (s : State) : (s.linkIdle).accrual = s.accrual := rfl
@[simp] theorem State.linkIdle_snap (s : State) : (s.linkIdle).snap = s.snap := rfl
@[simp] theorem State.linkIdle_startup (s : State) : (s.linkIdle).startup = s.startup := rfl
@[simp] theorem State.linkIdle_pins (s : State) : (s.linkIdle).pins = s.pins := rfl
@[simp] theorem State.linkIdle_freeIndex (s : State) : (s.linkIdle).freeIndex = s.freeIndex := rfl
@[simp] theorem State.linkIdle_pending (s : State) : (s.linkIdle).pending = s.pending := rfl
@[simp] theorem State.sent_phase (s : State) (bytes : List Byte) : (s.sent bytes).phase = s.phase := rfl
@[simp] theorem State.sent_lastServed (s : State) (bytes : List Byte) : (s.sent bytes).lastServed = s.lastServed := rfl
@[simp] theorem State.sent_table (s : State) (bytes : List Byte) : (s.sent bytes).table = s.table := rfl
@[simp] theorem State.sent_pool (s : State) (bytes : List Byte) : (s.sent bytes).pool = s.pool := rfl
@[simp] theorem State.sent_urg (s : State) (bytes : List Byte) : (s.sent bytes).urg = s.urg := rfl
@[simp] theorem State.sent_pln (s : State) (bytes : List Byte) : (s.sent bytes).pln = s.pln := rfl
@[simp] theorem State.sent_ports (s : State) (bytes : List Byte) : (s.sent bytes).ports = s.ports := rfl
@[simp] theorem State.sent_lease (s : State) (bytes : List Byte) : (s.sent bytes).lease = s.lease := rfl
@[simp] theorem State.sent_accrual (s : State) (bytes : List Byte) : (s.sent bytes).accrual = s.accrual := rfl
@[simp] theorem State.sent_snap (s : State) (bytes : List Byte) : (s.sent bytes).snap = s.snap := rfl
@[simp] theorem State.sent_startup (s : State) (bytes : List Byte) : (s.sent bytes).startup = s.startup := rfl
@[simp] theorem State.sent_pins (s : State) (bytes : List Byte) : (s.sent bytes).pins = s.pins := rfl
@[simp] theorem State.sent_freeIndex (s : State) (bytes : List Byte) : (s.sent bytes).freeIndex = s.freeIndex := rfl
@[simp] theorem State.sent_pending (s : State) (bytes : List Byte) : (s.sent bytes).pending = s.pending := rfl
@[simp] theorem State.endSnapshot_phase (s : State) : (s.endSnapshot).phase = s.phase := rfl
@[simp] theorem State.endSnapshot_lastServed (s : State) : (s.endSnapshot).lastServed = s.lastServed := rfl
@[simp] theorem State.endSnapshot_table (s : State) : (s.endSnapshot).table = s.table := rfl
@[simp] theorem State.endSnapshot_pool (s : State) : (s.endSnapshot).pool = s.pool := rfl
@[simp] theorem State.endSnapshot_urg (s : State) : (s.endSnapshot).urg = s.urg := rfl
@[simp] theorem State.endSnapshot_pln (s : State) : (s.endSnapshot).pln = s.pln := rfl
@[simp] theorem State.endSnapshot_ports (s : State) : (s.endSnapshot).ports = s.ports := rfl
@[simp] theorem State.endSnapshot_lease (s : State) : (s.endSnapshot).lease = s.lease := rfl
@[simp] theorem State.endSnapshot_accrual (s : State) : (s.endSnapshot).accrual = s.accrual := rfl
@[simp] theorem State.endSnapshot_link (s : State) : (s.endSnapshot).link = s.link := rfl
@[simp] theorem State.endSnapshot_startup (s : State) : (s.endSnapshot).startup = s.startup := rfl
@[simp] theorem State.endSnapshot_pins (s : State) : (s.endSnapshot).pins = s.pins := rfl
@[simp] theorem State.endSnapshot_freeIndex (s : State) : (s.endSnapshot).freeIndex = s.freeIndex := rfl
@[simp] theorem State.endSnapshot_pending (s : State) : (s.endSnapshot).pending = s.pending := rfl
@[simp] theorem State.beginService_phase (s : State) (p : Port) (k : SlotNo) (r : Request) : (s.beginService p k r).phase = s.phase := rfl
@[simp] theorem State.beginService_table (s : State) (p : Port) (k : SlotNo) (r : Request) : (s.beginService p k r).table = s.table := rfl
@[simp] theorem State.beginService_pool (s : State) (p : Port) (k : SlotNo) (r : Request) : (s.beginService p k r).pool = s.pool := rfl
@[simp] theorem State.beginService_urg (s : State) (p : Port) (k : SlotNo) (r : Request) : (s.beginService p k r).urg = s.urg := rfl
@[simp] theorem State.beginService_pln (s : State) (p : Port) (k : SlotNo) (r : Request) : (s.beginService p k r).pln = s.pln := rfl
@[simp] theorem State.beginService_lease (s : State) (p : Port) (k : SlotNo) (r : Request) : (s.beginService p k r).lease = s.lease := rfl
@[simp] theorem State.beginService_accrual (s : State) (p : Port) (k : SlotNo) (r : Request) : (s.beginService p k r).accrual = s.accrual := rfl
@[simp] theorem State.beginService_snap (s : State) (p : Port) (k : SlotNo) (r : Request) : (s.beginService p k r).snap = s.snap := rfl
@[simp] theorem State.beginService_link (s : State) (p : Port) (k : SlotNo) (r : Request) : (s.beginService p k r).link = s.link := rfl
@[simp] theorem State.beginService_startup (s : State) (p : Port) (k : SlotNo) (r : Request) : (s.beginService p k r).startup = s.startup := rfl
@[simp] theorem State.beginService_pins (s : State) (p : Port) (k : SlotNo) (r : Request) : (s.beginService p k r).pins = s.pins := rfl
@[simp] theorem State.beginService_freeIndex (s : State) (p : Port) (k : SlotNo) (r : Request) : (s.beginService p k r).freeIndex = s.freeIndex := rfl
@[simp] theorem State.beginService_pending (s : State) (p : Port) (k : SlotNo) (r : Request) : (s.beginService p k r).pending = s.pending := rfl

/-! ### What the plain updates set -/

@[simp] theorem State.modifyPort_ports (s : State) (p : Port) (f : PortState → PortState) :
    (s.modifyPort p f).ports = s.ports.set p (f (s.ports.get p)) := rfl
@[simp] theorem State.addChanges_snap (s : State) (n : Nat) :
    (s.addChanges n).snap = { s.snap with changeCount := satAdd32 s.snap.changeCount n } := rfl
@[simp] theorem State.refreshLines_urg (s : State) : s.refreshLines.urg = urgCondition s.table := rfl
@[simp] theorem State.refreshLines_pln (s : State) : s.refreshLines.pln = plnCondition s.table := rfl
@[simp] theorem State.handOp_link (s : State) (op : FlashOp) (bank : Bank) (c : Client) :
    (s.handOp op bank c).link = s.link.hand ⟨op, bank, c⟩ := rfl
@[simp] theorem State.linkIdle_link (s : State) :
    s.linkIdle.link = { s.link with phase := .idle, op := none, writeEnabled := false, timer := none } := rfl
@[simp] theorem State.sent_link (s : State) (bytes : List Byte) : (s.sent bytes).link = { s.link with mdo := bytes } := rfl
@[simp] theorem State.endSnapshot_snap (s : State) : s.endSnapshot.snap = s.snap.startAutosave.afterEnd := rfl
@[simp] theorem State.beginService_lastServed (s : State) (p : Port) (k : SlotNo) (r : Request) :
    (s.beginService p k r).lastServed = p := rfl

/-! ### Updates that choose -/

@[simp] theorem State.publish_phase (s : State) (before after : Entry) : (s.publish before after).phase = s.phase := by unfold State.publish; split <;> rfl
@[simp] theorem State.publish_lastServed (s : State) (before after : Entry) : (s.publish before after).lastServed = s.lastServed := by unfold State.publish; split <;> rfl
@[simp] theorem State.publish_table (s : State) (before after : Entry) : (s.publish before after).table = s.table := by unfold State.publish; split <;> rfl
@[simp] theorem State.publish_pool (s : State) (before after : Entry) : (s.publish before after).pool = s.pool := by unfold State.publish; split <;> rfl
@[simp] theorem State.publish_urg (s : State) (before after : Entry) : (s.publish before after).urg = s.urg := by unfold State.publish; split <;> rfl
@[simp] theorem State.publish_pln (s : State) (before after : Entry) : (s.publish before after).pln = s.pln := by unfold State.publish; split <;> rfl
@[simp] theorem State.publish_lease (s : State) (before after : Entry) : (s.publish before after).lease = s.lease := by unfold State.publish; split <;> rfl
@[simp] theorem State.publish_accrual (s : State) (before after : Entry) : (s.publish before after).accrual = s.accrual := by unfold State.publish; split <;> rfl
@[simp] theorem State.publish_snap (s : State) (before after : Entry) : (s.publish before after).snap = s.snap := by unfold State.publish; split <;> rfl
@[simp] theorem State.publish_link (s : State) (before after : Entry) : (s.publish before after).link = s.link := by unfold State.publish; split <;> rfl
@[simp] theorem State.publish_startup (s : State) (before after : Entry) : (s.publish before after).startup = s.startup := by unfold State.publish; split <;> rfl
@[simp] theorem State.publish_pins (s : State) (before after : Entry) : (s.publish before after).pins = s.pins := by unfold State.publish; split <;> rfl
@[simp] theorem State.publish_freeIndex (s : State) (before after : Entry) : (s.publish before after).freeIndex = s.freeIndex := by unfold State.publish; split <;> rfl
@[simp] theorem State.publish_pending (s : State) (before after : Entry) : (s.publish before after).pending = s.pending := by unfold State.publish; split <;> rfl
@[simp] theorem State.replaceEntry_phase (s : State) (before after : Entry) : (s.replaceEntry before after).phase = s.phase := by simp [State.replaceEntry]
@[simp] theorem State.replaceEntry_lastServed (s : State) (before after : Entry) : (s.replaceEntry before after).lastServed = s.lastServed := by simp [State.replaceEntry]
@[simp] theorem State.replaceEntry_pool (s : State) (before after : Entry) : (s.replaceEntry before after).pool = s.pool := by simp [State.replaceEntry]
@[simp] theorem State.replaceEntry_urg (s : State) (before after : Entry) : (s.replaceEntry before after).urg = s.urg := by simp [State.replaceEntry]
@[simp] theorem State.replaceEntry_pln (s : State) (before after : Entry) : (s.replaceEntry before after).pln = s.pln := by simp [State.replaceEntry]
@[simp] theorem State.replaceEntry_lease (s : State) (before after : Entry) : (s.replaceEntry before after).lease = s.lease := by simp [State.replaceEntry]
@[simp] theorem State.replaceEntry_accrual (s : State) (before after : Entry) : (s.replaceEntry before after).accrual = s.accrual := by simp [State.replaceEntry]
@[simp] theorem State.replaceEntry_snap (s : State) (before after : Entry) : (s.replaceEntry before after).snap = s.snap := by simp [State.replaceEntry]
@[simp] theorem State.replaceEntry_link (s : State) (before after : Entry) : (s.replaceEntry before after).link = s.link := by simp [State.replaceEntry]
@[simp] theorem State.replaceEntry_startup (s : State) (before after : Entry) : (s.replaceEntry before after).startup = s.startup := by simp [State.replaceEntry]
@[simp] theorem State.replaceEntry_pins (s : State) (before after : Entry) : (s.replaceEntry before after).pins = s.pins := by simp [State.replaceEntry]
@[simp] theorem State.replaceEntry_freeIndex (s : State) (before after : Entry) : (s.replaceEntry before after).freeIndex = s.freeIndex := by simp [State.replaceEntry]
@[simp] theorem State.replaceEntry_pending (s : State) (before after : Entry) : (s.replaceEntry before after).pending = s.pending := by simp [State.replaceEntry]
@[simp] theorem State.replaceEntry_table (s : State) (before after : Entry) :
    (s.replaceEntry before after).table = putEntry s.table after := by simp [State.replaceEntry]
@[simp] theorem State.refreshLease_phase (s : State) (p : Port) : (s.refreshLease p).phase = s.phase := by unfold State.refreshLease; split <;> rfl
@[simp] theorem State.refreshLease_lastServed (s : State) (p : Port) : (s.refreshLease p).lastServed = s.lastServed := by unfold State.refreshLease; split <;> rfl
@[simp] theorem State.refreshLease_table (s : State) (p : Port) : (s.refreshLease p).table = s.table := by unfold State.refreshLease; split <;> rfl
@[simp] theorem State.refreshLease_pool (s : State) (p : Port) : (s.refreshLease p).pool = s.pool := by unfold State.refreshLease; split <;> rfl
@[simp] theorem State.refreshLease_urg (s : State) (p : Port) : (s.refreshLease p).urg = s.urg := by unfold State.refreshLease; split <;> rfl
@[simp] theorem State.refreshLease_pln (s : State) (p : Port) : (s.refreshLease p).pln = s.pln := by unfold State.refreshLease; split <;> rfl
@[simp] theorem State.refreshLease_ports (s : State) (p : Port) : (s.refreshLease p).ports = s.ports := by unfold State.refreshLease; split <;> rfl
@[simp] theorem State.refreshLease_accrual (s : State) (p : Port) : (s.refreshLease p).accrual = s.accrual := by unfold State.refreshLease; split <;> rfl
@[simp] theorem State.refreshLease_snap (s : State) (p : Port) : (s.refreshLease p).snap = s.snap := by unfold State.refreshLease; split <;> rfl
@[simp] theorem State.refreshLease_link (s : State) (p : Port) : (s.refreshLease p).link = s.link := by unfold State.refreshLease; split <;> rfl
@[simp] theorem State.refreshLease_startup (s : State) (p : Port) : (s.refreshLease p).startup = s.startup := by unfold State.refreshLease; split <;> rfl
@[simp] theorem State.refreshLease_pins (s : State) (p : Port) : (s.refreshLease p).pins = s.pins := by unfold State.refreshLease; split <;> rfl
@[simp] theorem State.refreshLease_freeIndex (s : State) (p : Port) : (s.refreshLease p).freeIndex = s.freeIndex := by unfold State.refreshLease; split <;> rfl
@[simp] theorem State.refreshLease_pending (s : State) (p : Port) : (s.refreshLease p).pending = s.pending := by unfold State.refreshLease; split <;> rfl

theorem State.endService_cases (s : State) (p : Port) (k : SlotNo) (r : Request) (reply : Reply) :
    (∃ result body, reply = .answer result body ∧
      s.endService p k r reply = s.modifyPort p fun ps => ps.answerSlot k ⟨r.tag, r.code, result, body⟩) ∨
    (∃ b, reply = .wait b ∧
      s.endService p k r reply =
        { s.modifyPort p (fun ps => { ps with slots := ps.slots.set k (.waiting r) }) with
          snap := { s.snap with waiting := s.snap.waiting ++ [⟨p, k, b⟩] } }) := by
  cases reply with
  | answer result body => exact .inl ⟨result, body, rfl, rfl⟩
  | wait b => exact .inr ⟨b, rfl, rfl⟩

@[simp] theorem State.endService_phase (s : State) (p : Port) (k : SlotNo) (r : Request) (reply : Reply) : (s.endService p k r reply).phase = s.phase := by cases reply <;> rfl
@[simp] theorem State.endService_lastServed (s : State) (p : Port) (k : SlotNo) (r : Request) (reply : Reply) : (s.endService p k r reply).lastServed = s.lastServed := by cases reply <;> rfl
@[simp] theorem State.endService_table (s : State) (p : Port) (k : SlotNo) (r : Request) (reply : Reply) : (s.endService p k r reply).table = s.table := by cases reply <;> rfl
@[simp] theorem State.endService_pool (s : State) (p : Port) (k : SlotNo) (r : Request) (reply : Reply) : (s.endService p k r reply).pool = s.pool := by cases reply <;> rfl
@[simp] theorem State.endService_urg (s : State) (p : Port) (k : SlotNo) (r : Request) (reply : Reply) : (s.endService p k r reply).urg = s.urg := by cases reply <;> rfl
@[simp] theorem State.endService_pln (s : State) (p : Port) (k : SlotNo) (r : Request) (reply : Reply) : (s.endService p k r reply).pln = s.pln := by cases reply <;> rfl
@[simp] theorem State.endService_lease (s : State) (p : Port) (k : SlotNo) (r : Request) (reply : Reply) : (s.endService p k r reply).lease = s.lease := by cases reply <;> rfl
@[simp] theorem State.endService_accrual (s : State) (p : Port) (k : SlotNo) (r : Request) (reply : Reply) : (s.endService p k r reply).accrual = s.accrual := by cases reply <;> rfl
@[simp] theorem State.endService_link (s : State) (p : Port) (k : SlotNo) (r : Request) (reply : Reply) : (s.endService p k r reply).link = s.link := by cases reply <;> rfl
@[simp] theorem State.endService_startup (s : State) (p : Port) (k : SlotNo) (r : Request) (reply : Reply) : (s.endService p k r reply).startup = s.startup := by cases reply <;> rfl
@[simp] theorem State.endService_pins (s : State) (p : Port) (k : SlotNo) (r : Request) (reply : Reply) : (s.endService p k r reply).pins = s.pins := by cases reply <;> rfl
@[simp] theorem State.endService_freeIndex (s : State) (p : Port) (k : SlotNo) (r : Request) (reply : Reply) : (s.endService p k r reply).freeIndex = s.freeIndex := by cases reply <;> rfl
@[simp] theorem State.endService_pending (s : State) (p : Port) (k : SlotNo) (r : Request) (reply : Reply) : (s.endService p k r reply).pending = s.pending := by cases reply <;> rfl

/-! ### Updates over a list of events -/

theorem State.foldl_verdictEvent_ports (s : State) (evs : List VerdictEvent) :
    evs.foldl State.verdictEvent s = { s with ports := (evs.foldl State.verdictEvent s).ports } := by
  induction evs generalizing s with
  | nil => rfl
  | cons ev evs ih => rw [List.foldl_cons, ih]; rfl

@[simp] theorem State.foldl_verdictEvent_phase (s : State) (evs : List VerdictEvent) : (evs.foldl State.verdictEvent s).phase = s.phase := by rw [State.foldl_verdictEvent_ports]
@[simp] theorem State.foldl_verdictEvent_lastServed (s : State) (evs : List VerdictEvent) : (evs.foldl State.verdictEvent s).lastServed = s.lastServed := by rw [State.foldl_verdictEvent_ports]
@[simp] theorem State.foldl_verdictEvent_table (s : State) (evs : List VerdictEvent) : (evs.foldl State.verdictEvent s).table = s.table := by rw [State.foldl_verdictEvent_ports]
@[simp] theorem State.foldl_verdictEvent_pool (s : State) (evs : List VerdictEvent) : (evs.foldl State.verdictEvent s).pool = s.pool := by rw [State.foldl_verdictEvent_ports]
@[simp] theorem State.foldl_verdictEvent_urg (s : State) (evs : List VerdictEvent) : (evs.foldl State.verdictEvent s).urg = s.urg := by rw [State.foldl_verdictEvent_ports]
@[simp] theorem State.foldl_verdictEvent_pln (s : State) (evs : List VerdictEvent) : (evs.foldl State.verdictEvent s).pln = s.pln := by rw [State.foldl_verdictEvent_ports]
@[simp] theorem State.foldl_verdictEvent_lease (s : State) (evs : List VerdictEvent) : (evs.foldl State.verdictEvent s).lease = s.lease := by rw [State.foldl_verdictEvent_ports]
@[simp] theorem State.foldl_verdictEvent_accrual (s : State) (evs : List VerdictEvent) : (evs.foldl State.verdictEvent s).accrual = s.accrual := by rw [State.foldl_verdictEvent_ports]
@[simp] theorem State.foldl_verdictEvent_snap (s : State) (evs : List VerdictEvent) : (evs.foldl State.verdictEvent s).snap = s.snap := by rw [State.foldl_verdictEvent_ports]
@[simp] theorem State.foldl_verdictEvent_link (s : State) (evs : List VerdictEvent) : (evs.foldl State.verdictEvent s).link = s.link := by rw [State.foldl_verdictEvent_ports]
@[simp] theorem State.foldl_verdictEvent_startup (s : State) (evs : List VerdictEvent) : (evs.foldl State.verdictEvent s).startup = s.startup := by rw [State.foldl_verdictEvent_ports]
@[simp] theorem State.foldl_verdictEvent_pins (s : State) (evs : List VerdictEvent) : (evs.foldl State.verdictEvent s).pins = s.pins := by rw [State.foldl_verdictEvent_ports]
@[simp] theorem State.foldl_verdictEvent_freeIndex (s : State) (evs : List VerdictEvent) : (evs.foldl State.verdictEvent s).freeIndex = s.freeIndex := by rw [State.foldl_verdictEvent_ports]
@[simp] theorem State.foldl_verdictEvent_pending (s : State) (evs : List VerdictEvent) : (evs.foldl State.verdictEvent s).pending = s.pending := by rw [State.foldl_verdictEvent_ports]
@[simp] theorem State.overrideDrop_phase (s : State) : (s.overrideDrop).phase = s.phase := by simp [State.overrideDrop]
@[simp] theorem State.overrideDrop_lastServed (s : State) : (s.overrideDrop).lastServed = s.lastServed := by simp [State.overrideDrop]
@[simp] theorem State.overrideDrop_pool (s : State) : (s.overrideDrop).pool = s.pool := by simp [State.overrideDrop]
@[simp] theorem State.overrideDrop_lease (s : State) : (s.overrideDrop).lease = s.lease := by simp [State.overrideDrop]
@[simp] theorem State.overrideDrop_accrual (s : State) : (s.overrideDrop).accrual = s.accrual := by simp [State.overrideDrop]
@[simp] theorem State.overrideDrop_snap (s : State) : (s.overrideDrop).snap = s.snap := by simp [State.overrideDrop]
@[simp] theorem State.overrideDrop_link (s : State) : (s.overrideDrop).link = s.link := by simp [State.overrideDrop]
@[simp] theorem State.overrideDrop_startup (s : State) : (s.overrideDrop).startup = s.startup := by simp [State.overrideDrop]
@[simp] theorem State.overrideDrop_pins (s : State) : (s.overrideDrop).pins = s.pins := by simp [State.overrideDrop]
@[simp] theorem State.overrideDrop_freeIndex (s : State) : (s.overrideDrop).freeIndex = s.freeIndex := by simp [State.overrideDrop]
@[simp] theorem State.overrideDrop_pending (s : State) : (s.overrideDrop).pending = s.pending := by simp [State.overrideDrop]
@[simp] theorem State.overrideDrop_table (s : State) : s.overrideDrop.table = s.table.map Entry.dropOverride := by
  simp [State.overrideDrop]
@[simp] theorem State.overrideDrop_urg (s : State) :
    s.overrideDrop.urg = urgCondition (s.table.map Entry.dropOverride) := by simp [State.overrideDrop]
@[simp] theorem State.overrideDrop_pln (s : State) :
    s.overrideDrop.pln = plnCondition (s.table.map Entry.dropOverride) := by simp [State.overrideDrop]
@[simp] theorem State.endLease_phase (s : State) (reason : LeaseEndReason) : (s.endLease reason).phase = s.phase := by unfold State.endLease; split <;> simp
@[simp] theorem State.endLease_lastServed (s : State) (reason : LeaseEndReason) : (s.endLease reason).lastServed = s.lastServed := by unfold State.endLease; split <;> simp
@[simp] theorem State.endLease_pool (s : State) (reason : LeaseEndReason) : (s.endLease reason).pool = s.pool := by unfold State.endLease; split <;> simp
@[simp] theorem State.endLease_accrual (s : State) (reason : LeaseEndReason) : (s.endLease reason).accrual = s.accrual := by unfold State.endLease; split <;> simp
@[simp] theorem State.endLease_snap (s : State) (reason : LeaseEndReason) : (s.endLease reason).snap = s.snap := by unfold State.endLease; split <;> simp
@[simp] theorem State.endLease_link (s : State) (reason : LeaseEndReason) : (s.endLease reason).link = s.link := by unfold State.endLease; split <;> simp
@[simp] theorem State.endLease_startup (s : State) (reason : LeaseEndReason) : (s.endLease reason).startup = s.startup := by unfold State.endLease; split <;> simp
@[simp] theorem State.endLease_pins (s : State) (reason : LeaseEndReason) : (s.endLease reason).pins = s.pins := by unfold State.endLease; split <;> simp
@[simp] theorem State.endLease_freeIndex (s : State) (reason : LeaseEndReason) : (s.endLease reason).freeIndex = s.freeIndex := by unfold State.endLease; split <;> simp
@[simp] theorem State.endLease_pending (s : State) (reason : LeaseEndReason) : (s.endLease reason).pending = s.pending := by unfold State.endLease; split <;> simp
@[simp] theorem State.resetPort_phase (s : State) (p : Port) (spared : Option SlotNo) : (s.resetPort p spared).phase = s.phase := by unfold State.resetPort; dsimp only; split <;> simp
@[simp] theorem State.resetPort_lastServed (s : State) (p : Port) (spared : Option SlotNo) : (s.resetPort p spared).lastServed = s.lastServed := by unfold State.resetPort; dsimp only; split <;> simp
@[simp] theorem State.resetPort_pool (s : State) (p : Port) (spared : Option SlotNo) : (s.resetPort p spared).pool = s.pool := by unfold State.resetPort; dsimp only; split <;> simp
@[simp] theorem State.resetPort_accrual (s : State) (p : Port) (spared : Option SlotNo) : (s.resetPort p spared).accrual = s.accrual := by unfold State.resetPort; dsimp only; split <;> simp
@[simp] theorem State.resetPort_link (s : State) (p : Port) (spared : Option SlotNo) : (s.resetPort p spared).link = s.link := by unfold State.resetPort; dsimp only; split <;> simp
@[simp] theorem State.resetPort_startup (s : State) (p : Port) (spared : Option SlotNo) : (s.resetPort p spared).startup = s.startup := by unfold State.resetPort; dsimp only; split <;> simp
@[simp] theorem State.resetPort_pins (s : State) (p : Port) (spared : Option SlotNo) : (s.resetPort p spared).pins = s.pins := by unfold State.resetPort; dsimp only; split <;> simp
@[simp] theorem State.resetPort_freeIndex (s : State) (p : Port) (spared : Option SlotNo) : (s.resetPort p spared).freeIndex = s.freeIndex := by unfold State.resetPort; dsimp only; split <;> simp
@[simp] theorem State.resetPort_pending (s : State) (p : Port) (spared : Option SlotNo) : (s.resetPort p spared).pending = s.pending := by unfold State.resetPort; dsimp only; split <;> simp
@[simp] theorem State.resetPort_snap (s : State) (p : Port) (spared : Option SlotNo) :
    (s.resetPort p spared).snap = { s.snap with waiting := s.snap.waiting.filter fun w => decide (w.port ≠ p) } := by
  unfold State.resetPort; dsimp only; split <;> simp
@[simp] theorem State.answerSave_phase (result : ResultCode) (body : List Byte) (s : State) (w : WaitingSave) : (State.answerSave result body s w).phase = s.phase := rfl
@[simp] theorem State.answerSave_lastServed (result : ResultCode) (body : List Byte) (s : State) (w : WaitingSave) : (State.answerSave result body s w).lastServed = s.lastServed := rfl
@[simp] theorem State.answerSave_table (result : ResultCode) (body : List Byte) (s : State) (w : WaitingSave) : (State.answerSave result body s w).table = s.table := rfl
@[simp] theorem State.answerSave_pool (result : ResultCode) (body : List Byte) (s : State) (w : WaitingSave) : (State.answerSave result body s w).pool = s.pool := rfl
@[simp] theorem State.answerSave_urg (result : ResultCode) (body : List Byte) (s : State) (w : WaitingSave) : (State.answerSave result body s w).urg = s.urg := rfl
@[simp] theorem State.answerSave_pln (result : ResultCode) (body : List Byte) (s : State) (w : WaitingSave) : (State.answerSave result body s w).pln = s.pln := rfl
@[simp] theorem State.answerSave_lease (result : ResultCode) (body : List Byte) (s : State) (w : WaitingSave) : (State.answerSave result body s w).lease = s.lease := rfl
@[simp] theorem State.answerSave_accrual (result : ResultCode) (body : List Byte) (s : State) (w : WaitingSave) : (State.answerSave result body s w).accrual = s.accrual := rfl
@[simp] theorem State.answerSave_snap (result : ResultCode) (body : List Byte) (s : State) (w : WaitingSave) : (State.answerSave result body s w).snap = s.snap := rfl
@[simp] theorem State.answerSave_link (result : ResultCode) (body : List Byte) (s : State) (w : WaitingSave) : (State.answerSave result body s w).link = s.link := rfl
@[simp] theorem State.answerSave_startup (result : ResultCode) (body : List Byte) (s : State) (w : WaitingSave) : (State.answerSave result body s w).startup = s.startup := rfl
@[simp] theorem State.answerSave_pins (result : ResultCode) (body : List Byte) (s : State) (w : WaitingSave) : (State.answerSave result body s w).pins = s.pins := rfl
@[simp] theorem State.answerSave_freeIndex (result : ResultCode) (body : List Byte) (s : State) (w : WaitingSave) : (State.answerSave result body s w).freeIndex = s.freeIndex := rfl
@[simp] theorem State.answerSave_pending (result : ResultCode) (body : List Byte) (s : State) (w : WaitingSave) : (State.answerSave result body s w).pending = s.pending := rfl

theorem State.foldl_answerSave_ports (result : ResultCode) (body : List Byte) (s : State) (ws : List WaitingSave) :
    ws.foldl (State.answerSave result body) s =
      { s with ports := (ws.foldl (State.answerSave result body) s).ports } := by
  induction ws generalizing s with
  | nil => rfl
  | cons w ws ih => rw [List.foldl_cons, ih]; rfl

@[simp] theorem State.answerSaves_phase (s : State) (result : ResultCode) (body : List Byte) : (s.answerSaves result body).phase = s.phase := by unfold State.answerSaves; rw [State.foldl_answerSave_ports]
@[simp] theorem State.answerSaves_lastServed (s : State) (result : ResultCode) (body : List Byte) : (s.answerSaves result body).lastServed = s.lastServed := by unfold State.answerSaves; rw [State.foldl_answerSave_ports]
@[simp] theorem State.answerSaves_table (s : State) (result : ResultCode) (body : List Byte) : (s.answerSaves result body).table = s.table := by unfold State.answerSaves; rw [State.foldl_answerSave_ports]
@[simp] theorem State.answerSaves_pool (s : State) (result : ResultCode) (body : List Byte) : (s.answerSaves result body).pool = s.pool := by unfold State.answerSaves; rw [State.foldl_answerSave_ports]
@[simp] theorem State.answerSaves_urg (s : State) (result : ResultCode) (body : List Byte) : (s.answerSaves result body).urg = s.urg := by unfold State.answerSaves; rw [State.foldl_answerSave_ports]
@[simp] theorem State.answerSaves_pln (s : State) (result : ResultCode) (body : List Byte) : (s.answerSaves result body).pln = s.pln := by unfold State.answerSaves; rw [State.foldl_answerSave_ports]
@[simp] theorem State.answerSaves_lease (s : State) (result : ResultCode) (body : List Byte) : (s.answerSaves result body).lease = s.lease := by unfold State.answerSaves; rw [State.foldl_answerSave_ports]
@[simp] theorem State.answerSaves_accrual (s : State) (result : ResultCode) (body : List Byte) : (s.answerSaves result body).accrual = s.accrual := by unfold State.answerSaves; rw [State.foldl_answerSave_ports]
@[simp] theorem State.answerSaves_link (s : State) (result : ResultCode) (body : List Byte) : (s.answerSaves result body).link = s.link := by unfold State.answerSaves; rw [State.foldl_answerSave_ports]
@[simp] theorem State.answerSaves_startup (s : State) (result : ResultCode) (body : List Byte) : (s.answerSaves result body).startup = s.startup := by unfold State.answerSaves; rw [State.foldl_answerSave_ports]
@[simp] theorem State.answerSaves_pins (s : State) (result : ResultCode) (body : List Byte) : (s.answerSaves result body).pins = s.pins := by unfold State.answerSaves; rw [State.foldl_answerSave_ports]
@[simp] theorem State.answerSaves_freeIndex (s : State) (result : ResultCode) (body : List Byte) : (s.answerSaves result body).freeIndex = s.freeIndex := by unfold State.answerSaves; rw [State.foldl_answerSave_ports]
@[simp] theorem State.answerSaves_pending (s : State) (result : ResultCode) (body : List Byte) : (s.answerSaves result body).pending = s.pending := by unfold State.answerSaves; rw [State.foldl_answerSave_ports]
@[simp] theorem State.answerSaves_snap (s : State) (result : ResultCode) (body : List Byte) :
    (s.answerSaves result body).snap = s.snap.rebind := by
  unfold State.answerSaves; rw [State.foldl_answerSave_ports]
@[simp] theorem State.visit_phase (a : Accrual) (s : State) (e : Entry) : (State.visit a s e).phase = s.phase := by unfold State.visit; split <;> simp
@[simp] theorem State.visit_lastServed (a : Accrual) (s : State) (e : Entry) : (State.visit a s e).lastServed = s.lastServed := by unfold State.visit; split <;> simp
@[simp] theorem State.visit_pool (a : Accrual) (s : State) (e : Entry) : (State.visit a s e).pool = s.pool := by unfold State.visit; split <;> simp
@[simp] theorem State.visit_urg (a : Accrual) (s : State) (e : Entry) : (State.visit a s e).urg = s.urg := by unfold State.visit; split <;> simp
@[simp] theorem State.visit_pln (a : Accrual) (s : State) (e : Entry) : (State.visit a s e).pln = s.pln := by unfold State.visit; split <;> simp
@[simp] theorem State.visit_lease (a : Accrual) (s : State) (e : Entry) : (State.visit a s e).lease = s.lease := by unfold State.visit; split <;> simp
@[simp] theorem State.visit_accrual (a : Accrual) (s : State) (e : Entry) : (State.visit a s e).accrual = s.accrual := by unfold State.visit; split <;> simp
@[simp] theorem State.visit_snap (a : Accrual) (s : State) (e : Entry) : (State.visit a s e).snap = s.snap := by unfold State.visit; split <;> simp
@[simp] theorem State.visit_link (a : Accrual) (s : State) (e : Entry) : (State.visit a s e).link = s.link := by unfold State.visit; split <;> simp
@[simp] theorem State.visit_startup (a : Accrual) (s : State) (e : Entry) : (State.visit a s e).startup = s.startup := by unfold State.visit; split <;> simp
@[simp] theorem State.visit_pins (a : Accrual) (s : State) (e : Entry) : (State.visit a s e).pins = s.pins := by unfold State.visit; split <;> simp
@[simp] theorem State.visit_freeIndex (a : Accrual) (s : State) (e : Entry) : (State.visit a s e).freeIndex = s.freeIndex := by unfold State.visit; split <;> simp
@[simp] theorem State.visit_pending (a : Accrual) (s : State) (e : Entry) : (State.visit a s e).pending = s.pending := by unfold State.visit; split <;> simp

end Sys2Proof.Machine
end

