-- ==== Sys2Proof/Laws/Ports.lean ====
section
/-!
SUPPORT. Reading and writing one port, one slot; what the notice unit's operations do to a port.
-/
namespace Sys2Proof.Machine

@[simp] theorem PerPort.get_set_self (v : PerPort α) (p : Port) (x : α) : (v.set p x).get p = x := by cases p <;> rfl

theorem PerPort.get_set_other (v : PerPort α) {p q : Port} (x : α) (h : q ≠ p) : (v.set p x).get q = v.get q := by
  cases p <;> cases q <;> first | rfl | exact absurd rfl h

theorem PerPort.get_set (v : PerPort α) (p q : Port) (x : α) : (v.set p x).get q = if q = p then x else v.get q := by
  by_cases h : q = p
  · subst h; simp
  · rw [PerPort.get_set_other v x h, if_neg h]

@[simp] theorem PerPort.get_map (f : α → β) (v : PerPort α) (p : Port) : (v.map f).get p = f (v.get p) := by
  cases p <;> rfl

/-- Two families of values that agree at every port are equal. -/
theorem PerPort.ext_get {v w : PerPort α} (h : ∀ p, v.get p = w.get p) : v = w := by
  cases v; cases w
  have h0 := h .p0; have h1 := h .p1; have h2 := h .p2; have h3 := h .p3
  simp only [PerPort.get] at h0 h1 h2 h3
  subst h0 h1 h2 h3; rfl

@[simp] theorem PerPort.set_set (v : PerPort α) (p : Port) (x y : α) : (v.set p x).set p y = v.set p y := by
  cases p <;> rfl

@[simp] theorem PerPort.set_get (v : PerPort α) (p : Port) : v.set p (v.get p) = v := by cases p <;> rfl

@[simp] theorem Slots.get_set_self (v : Slots) (k : SlotNo) (x : Slot) : (v.set k x).get k = x := by cases k <;> rfl

theorem Slots.get_set_other (v : Slots) {k j : SlotNo} (x : Slot) (h : j ≠ k) : (v.set k x).get j = v.get j := by
  cases k <;> cases j <;> first | rfl | exact absurd rfl h

theorem Slots.get_set (v : Slots) (k j : SlotNo) (x : Slot) : (v.set k x).get j = if j = k then x else v.get j := by
  by_cases h : j = k
  · subst h; simp
  · rw [Slots.get_set_other v x h, if_neg h]

@[simp] theorem Slots.set_set (v : Slots) (k : SlotNo) (x y : Slot) : (v.set k x).set k y = v.set k y := by
  cases k <;> rfl

/-- R124: the lowest-numbered FREE slot is FREE, and every lower one is not. -/
theorem Slots.lowestFree_get {v : Slots} {k : SlotNo} (h : v.lowestFree = some k) : v.get k = .free := by
  simpa using List.find?_some h

theorem Slots.lowestFree_none {v : Slots} (h : v.lowestFree = none) (k : SlotNo) : v.get k ≠ .free := by
  have := List.find?_eq_none.mp h k (by cases k <;> simp)
  simpa using this

theorem State.modifyPort_get (s : State) (p q : Port) (f : PortState → PortState) :
    (s.modifyPort p f).ports.get q = if q = p then f (s.ports.get p) else s.ports.get q := by
  simp [PerPort.get_set]

/-- What a change of the attached ports' notices does to one port. -/
theorem State.notifyAttached_get (s : State) (f : NoticeUnit → NoticeUnit) (p : Port) :
    (s.notifyAttached f).ports.get p =
      { s.ports.get p with
        notices := if (s.ports.get p).attached then f (s.ports.get p).notices else (s.ports.get p).notices } := by
  unfold State.notifyAttached
  rw [PerPort.get_map]
  split <;> rfl

theorem State.verdictEvent_get (s : State) (ev : VerdictEvent) (p : Port) :
    (s.verdictEvent ev).ports.get p =
      { s.ports.get p with
        notices := if (s.ports.get p).attached then (s.ports.get p).notices.onVerdict ev
          else (s.ports.get p).notices } := State.notifyAttached_get s _ p

theorem State.systemEvent_get (s : State) (ev : SystemEvent) (p : Port) :
    (s.systemEvent ev).ports.get p =
      { s.ports.get p with
        notices := if (s.ports.get p).attached then (s.ports.get p).notices.append (.system ev)
          else (s.ports.get p).notices } := State.notifyAttached_get s _ p

/-- A run of verdict events changes, of one port, the notices alone, and only while it is attached. -/
theorem State.foldl_verdictEvent_get (s : State) (evs : List VerdictEvent) (p : Port) :
    (evs.foldl State.verdictEvent s).ports.get p =
      { s.ports.get p with
        notices := if (s.ports.get p).attached then evs.foldl (fun n ev => n.onVerdict ev) (s.ports.get p).notices
          else (s.ports.get p).notices } := by
  induction evs generalizing s with
  | nil => simp
  | cons ev evs ih =>
    rw [List.foldl_cons, ih, State.verdictEvent_get]
    by_cases h : (s.ports.get p).attached <;> simp [h]

theorem State.retirementEvent_get (s : State) (id score : Nat) (p : Port) :
    (s.retirementEvent id score).ports.get p =
      { s.ports.get p with
        notices := NoticeUnit.unwatch id
          (if (s.ports.get p).attached then (s.ports.get p).notices.retireQueue id score
            else (s.ports.get p).notices) } := by
  unfold State.retirementEvent
  simp only [PerPort.get_map, State.notifyAttached_get]

theorem State.publish_get (s : State) (before after : Entry) (p : Port) :
    (s.publish before after).ports.get p =
      { s.ports.get p with notices := noticesAfter before after (s.ports.get p) } := by
  unfold State.publish noticesAfter
  by_cases h : before.published = after.published
  · simp [h]
  · by_cases h' : (s.ports.get p).attached <;> simp [h, h', State.verdictEvent_get]

theorem State.replaceEntry_get (s : State) (before after : Entry) (p : Port) :
    (s.replaceEntry before after).ports.get p =
      { s.ports.get p with notices := noticesAfter before after (s.ports.get p) } := State.publish_get _ _ _ _

/-- R56: what the override drop does to one port. -/
theorem State.overrideDrop_get (s : State) (p : Port) :
    s.overrideDrop.ports.get p =
      { s.ports.get p with
        notices := if (s.ports.get p).attached then
          (dropEvents s.table).foldl (fun n ev => n.onVerdict ev) (s.ports.get p).notices
          else (s.ports.get p).notices } := by
  unfold State.overrideDrop
  rw [State.refreshLines_ports, State.foldl_verdictEvent_get]

/-- R113: what the end of the lease does, where one is held. -/
theorem State.endLease_eq (s : State) (reason : LeaseEndReason) {h : Port} (hh : s.lease.holder = some h) :
    s.endLease reason =
      { s with
        lease := .unheld
        table := s.table.map Entry.dropOverride
        urg := urgCondition (s.table.map Entry.dropOverride)
        pln := plnCondition (s.table.map Entry.dropOverride)
        ports := (s.endLease reason).ports } := by
  unfold State.endLease State.overrideDrop
  rw [hh]
  dsimp only [State.systemEvent, State.notifyAttached, State.refreshLines]
  rw [State.foldl_verdictEvent_ports]

/-- R56, R95, R113: what the end of the lease does to one port. -/
theorem State.endLease_get (s : State) (reason : LeaseEndReason) {h : Port} (hh : s.lease.holder = some h) (p : Port) :
    (s.endLease reason).ports.get p =
      { s.ports.get p with
        notices := if (s.ports.get p).attached then
          ((dropEvents s.table).foldl (fun n ev => n.onVerdict ev) (s.ports.get p).notices).append
            (.system (.leaseEnded h reason))
          else (s.ports.get p).notices } := by
  unfold State.endLease
  rw [hh]
  simp only [State.systemEvent_get, State.overrideDrop_get]
  by_cases h' : (s.ports.get p).attached <;> simp [h']

theorem State.endLease_none (s : State) (reason : LeaseEndReason) (hh : s.lease.holder = none) :
    s.endLease reason = s := by unfold State.endLease; rw [hh]

/-- No operation of the notice unit attaches or detaches a port. -/
theorem State.endLease_attached (s : State) (reason : LeaseEndReason) (p : Port) :
    ((s.endLease reason).ports.get p).attached = (s.ports.get p).attached := by
  cases hh : s.lease.holder with
  | none => rw [State.endLease_none s reason hh]
  | some h => rw [State.endLease_get s reason hh]

end Sys2Proof.Machine
end

