-- ==== Sys2Proof/Laws/Arbiter.lean ====
section
/-!
SUPPORT. What a grant does: the arbiter's choice, the service of a request as one event, the ports after it, and the
step around it.
-/
namespace Sys2Proof.Machine

/-- The candidate of a port stands at the head of its arrival order, in a QUEUED slot (R8). -/
theorem PortState.oldestQueued_some {ps : PortState} {k : SlotNo} {r : Request} (h : ps.oldestQueued = some (k, r)) :
    (∃ rest, ps.arrival = k :: rest) ∧ ps.slots.get k = .queued r := by
  unfold PortState.oldestQueued at h
  cases ha : ps.arrival with
  | nil => simp [ha] at h
  | cons j rest =>
    simp only [ha] at h
    cases hs : ps.slots.get j <;> simp [hs] at h
    obtain ⟨rfl, rfl⟩ := h
    exact ⟨⟨rest, rfl⟩, hs⟩

/-- R8, R9: a granted request is its port's candidate; the phase is RUNNING or FROZEN and no internal job is a candidate. -/
theorem arbiterChoice_request {s : State} {p : Port} {k : SlotNo} {r : Request}
    (h : s.arbiterChoice = some (.request p k r)) :
    s.phase ≠ .starting ∧ s.snap.phase ≠ .capturePending ∧ s.accrual.candidate = false ∧
      (s.ports.get p).oldestQueued = some (k, r) := by
  unfold State.arbiterChoice at h
  have key : ∀ g : State.arbiterChoice s = State.arbiterChoice s,
      (if s.snap.phase = .capturePending then some Grant.capture
        else if s.accrual.candidate = true then some Grant.accrual else s.portChoice) = some (.request p k r) →
      s.snap.phase ≠ .capturePending ∧ s.accrual.candidate = false ∧ (s.ports.get p).oldestQueued = some (k, r) := by
    intro _ h
    split at h
    · simp at h
    · next hc =>
      split at h
      · simp at h
      · next ha =>
        refine ⟨hc, by simpa using ha, ?_⟩
        obtain ⟨q, _, hq⟩ := List.exists_of_findSome?_eq_some h
        unfold State.portCandidate at hq
        obtain ⟨⟨k', r'⟩, ho, he⟩ := Option.map_eq_some_iff.mp hq
        cases he
        exact ho
  cases hp : s.phase with
  | starting => simp [hp] at h
  | running => simp only [hp] at h; exact ⟨by simp, key rfl h⟩
  | frozen => simp only [hp] at h; exact ⟨by simp, key rfl h⟩

/-- The chosen request is in its slot, QUEUED. -/
theorem Granted.queued {s : State} {p : Port} {c : RequestCode} {k : SlotNo} {r : Request} (h : Granted s p c k r) :
    (s.ports.get p).slots.get k = .queued r :=
  (PortState.oldestQueued_some (arbiterChoice_request h.1).2.2.2).2

theorem Granted.phase {s : State} {p : Port} {c : RequestCode} {k : SlotNo} {r : Request} (h : Granted s p c k r) :
    s.phase ≠ .starting := (arbiterChoice_request h.1).1

/-! ### The service of a request -/

/-- R9, R10: the service of the request that the arbiter chose. -/
theorem State.grantRequest_granted {s : State} {p : Port} {c : RequestCode} {k : SlotNo} {r : Request}
    (h : Granted s p c k r) (service : State → SlotNo → Request → State × Reply) :
    s.grantRequest p (some c) service =
      (service (s.beginService p k r) k r).1.endService p k r (service (s.beginService p k r) k r).2 := by
  unfold State.grantRequest
  rw [h.1]
  simp [h.2]

/-- R13: the service of a request that one of the checks at grant refuses. -/
theorem State.serve_refused {s : State} {p : Port} {c : RequestCode} {k : SlotNo} {r : Request} {reply : Reply}
    (h : Granted s p c k r) (decode : List Byte → Option α) (service : State → SlotNo → α → State × Reply)
    (hf : (s.beginService p k r).checkFailure p c (decode r.body).isSome = some reply) :
    s.serve p c decode service = (s.beginService p k r).endService p k r reply := by
  unfold State.serve
  rw [State.grantRequest_granted h]
  unfold State.checked
  rw [hf]

/-- R13: the service of a request that passes the checks at grant. -/
theorem State.serve_passed {s : State} {p : Port} {c : RequestCode} {k : SlotNo} {r : Request} {x : α}
    (h : Granted s p c k r) (decode : List Byte → Option α) (service : State → SlotNo → α → State × Reply)
    (hd : decode r.body = some x) (hf : (s.beginService p k r).checkFailure p c true = none) :
    s.serve p c decode service =
      (service (s.beginService p k r) k x).1.endService p k r (service (s.beginService p k r) k x).2 := by
  unfold State.serve
  rw [State.grantRequest_granted h]
  unfold State.checked
  rw [hd, Option.isSome_some, hf]

/-- Log entry 3: where the arbiter's choice is another, nothing changes. -/
theorem State.serve_other {s : State} {p : Port} {c : RequestCode} (decode : List Byte → Option α)
    (service : State → SlotNo → α → State × Reply) (h : ∀ k r, ¬ Granted s p c k r) :
    s.serve p c decode service = s := by
  unfold State.serve State.grantRequest
  split
  · next q k r hc =>
    split
    · next hq =>
      obtain ⟨rfl, hr⟩ := hq
      exact absurd ⟨hc, hr⟩ (h k r)
    · rfl
  · rfl
  · rfl
  · rfl

/-- What the service of a request can leave: nothing changed, a refusal by a check at grant, or its own service. -/
theorem State.serve_cases (s : State) (p : Port) (c : RequestCode) (decode : List Byte → Option α)
    (service : State → SlotNo → α → State × Reply) :
    s.serve p c decode service = s ∨
    ∃ k r, Granted s p c k r ∧
      ((∃ reply, (s.beginService p k r).checkFailure p c (decode r.body).isSome = some reply ∧
        s.serve p c decode service = (s.beginService p k r).endService p k r reply) ∨
       ∃ x, decode r.body = some x ∧ (s.beginService p k r).checkFailure p c true = none ∧
        s.serve p c decode service =
          (service (s.beginService p k r) k x).1.endService p k r (service (s.beginService p k r) k x).2) := by
  by_cases h : ∃ k r, Granted s p c k r
  · obtain ⟨k, r, hg⟩ := h
    refine .inr ⟨k, r, hg, ?_⟩
    cases hf : (s.beginService p k r).checkFailure p c (decode r.body).isSome with
    | some reply => exact .inl ⟨reply, rfl, State.serve_refused hg decode service hf⟩
    | none =>
      cases hd : decode r.body with
      | some x =>
        rw [hd, Option.isSome_some] at hf
        exact .inr ⟨x, rfl, hf, State.serve_passed hg decode service hd hf⟩
      | none =>
        rw [hd] at hf
        simp only [State.checkFailure, Option.isSome_none, Bool.not_false, if_true] at hf
        split at hf <;> simp at hf
  · exact .inl (State.serve_other decode service fun k r hg => h ⟨k, r, hg⟩)

/-! ### The checks at grant -/

/-- R13: a request of an attached port with a well-formed body passes when the lease and the phase let it. -/
theorem State.checkFailure_none {s : State} {p : Port} {c : RequestCode}
    (ha : (requestRow c).exemptAttached = true ∨ (s.ports.get p).attached = true)
    (hl : (requestRow c).heldToLease = true → s.lease.holder = some p)
    (hf : (requestRow c).refusedFrozen = true → s.phase ≠ .frozen) : s.checkFailure p c true = none := by
  unfold State.checkFailure
  have h1 : (!(requestRow c).exemptAttached && !(s.ports.get p).attached) = false := by
    rcases ha with h | h <;> simp [h]
  have h2 : ((requestRow c).heldToLease && decide (s.lease.holder ≠ some p)) = false := by
    cases h : (requestRow c).heldToLease
    · rfl
    · simp [hl h]
  have h3 : ((requestRow c).refusedFrozen && decide (s.phase = .frozen)) = false := by
    cases h : (requestRow c).refusedFrozen
    · rfl
    · simp [hf h]
  simp only [h1, h2, h3, Bool.not_true]
  rfl

/-! ### Ports around a service -/

theorem State.beginService_get (s : State) (p q : Port) (k : SlotNo) (r : Request) :
    (s.beginService p k r).ports.get q =
      if q = p then
        { s.ports.get p with
          arrival := (s.ports.get p).arrival.tail, slots := (s.ports.get p).slots.set k (.inService r) }
      else s.ports.get q := by
  simp [State.beginService, PerPort.get_set]

@[simp] theorem State.beginService_attached (s : State) (p q : Port) (k : SlotNo) (r : Request) :
    ((s.beginService p k r).ports.get q).attached = (s.ports.get q).attached := by
  rw [State.beginService_get]; split
  · next h => subst h; rfl
  · rfl

@[simp] theorem State.beginService_notices (s : State) (p q : Port) (k : SlotNo) (r : Request) :
    ((s.beginService p k r).ports.get q).notices = (s.ports.get q).notices := by
  rw [State.beginService_get]; split
  · next h => subst h; rfl
  · rfl

/-- R13: the check reads the attach state, the lease and the phase alone. -/
theorem State.checkFailure_begin (s : State) (p : Port) (k : SlotNo) (r : Request) (c : RequestCode) (d : Bool) :
    (s.beginService p k r).checkFailure p c d = s.checkFailure p c d := by
  unfold State.checkFailure
  rw [State.beginService_attached]
  rfl

theorem State.endService_answer_get (s : State) (p q : Port) (k : SlotNo) (r : Request) (result : ResultCode)
    (body : List Byte) :
    (s.endService p k r (.answer result body)).ports.get q =
      if q = p then (s.ports.get p).answerSlot k ⟨r.tag, r.code, result, body⟩ else s.ports.get q :=
  State.modifyPort_get s p q _

theorem State.endService_wait_get (s : State) (p q : Port) (k : SlotNo) (r : Request) (b : Binding) :
    (s.endService p k r (.wait b)).ports.get q =
      if q = p then { s.ports.get p with slots := (s.ports.get p).slots.set k (.waiting r) } else s.ports.get q := by
  simp only [State.endService]
  exact State.modifyPort_get s p q _

/-- The ports after a service that changed nothing of the ports but notices. -/
theorem State.answered_get {s t : State} {p : Port} {k : SlotNo} {r : Request} {notices : Port → NoticeUnit}
    (h : ∀ q, t.ports.get q = { (s.beginService p k r).ports.get q with notices := notices q }) (result : ResultCode)
    (body : List Byte) (q : Port) :
    (t.endService p k r (.answer result body)).ports.get q =
      portAfterGrant s p k ⟨r.tag, r.code, result, body⟩ notices q := by
  rw [State.endService_answer_get, h p, h q]
  unfold portAfterGrant
  split
  · next hq => subst hq; simp [State.beginService_get, PortState.answerSlot]
  · next hq => simp [State.beginService_get, hq]

/-! ### The step -/

/-- 00_scope, Events: the step runs the command at the front on the state with the queue's rest. -/
theorem step_cons (c : Instr) (rest : List Instr) (s : State) :
    step { s with pending := c :: rest } = exec c { s with pending := rest } := rfl

theorem step_nil {s : State} (h : s.pending = []) : step s = .next s.refclk := by
  unfold step; rw [h]

/-- Every command answers a next state. -/
theorem exec_next (c : Instr) (s : State) : ∃ t, exec c s = .next t := by
  cases c <;> exact ⟨_, rfl⟩

/-- What a step can do: one REFCLK period, or the command at the front. -/
theorem step_cases {s t : State} (h : step s = .next t) :
    (s.pending = [] ∧ t = s.refclk) ∨
    ∃ c rest, s.pending = c :: rest ∧ exec c { s with pending := rest } = .next t := by
  unfold step at h
  split at h
  · next hp => exact .inl ⟨hp, by injection h with h; exact h.symm⟩
  · next c rest hp => exact .inr ⟨c, rest, hp, h⟩

/-- The induction of every invariant: it is enough that a REFCLK period keeps it, that the queue does not matter to it,
and that every command keeps it. -/
theorem step_keeps {Inv : State → Prop} (hclk : ∀ s, Inv s → Inv s.refclk)
    (hq : ∀ s q, Inv s → Inv { s with pending := q }) (hexec : ∀ c s t, Inv s → exec c s = .next t → Inv t) {s t : State}
    (hi : Inv s) (h : step s = .next t) : Inv t := by
  rcases step_cases h with ⟨-, rfl⟩ | ⟨c, rest, -, he⟩
  · exact hclk s hi
  · exact hexec c _ t (hq s rest hi) he

end Sys2Proof.Machine
end

