-- ==== Sys2Proof/Laws/Bytes.lean ====
section
/-!
SUPPORT. Byte order, padding, fields of a record, and the bits of a byte.
-/
namespace Sys2Proof.Machine

@[simp] theorem byteOf_toNat (n : Nat) : (byteOf n).toNat = n % 256 := by simp [byteOf]

@[simp] theorem leBytes_length (w n : Nat) : (leBytes w n).length = w := by
  induction w generalizing n with
  | zero => rfl
  | succ w ih => simp [leBytes, ih]

/-- w bytes spell the number they were made from, modulo 256^w. -/
theorem leNat_leBytes (w n : Nat) : leNat (leBytes w n) = n % 256 ^ w := by
  induction w generalizing n with
  | zero => simp [leBytes, leNat, Nat.mod_one]
  | succ w ih =>
    rw [leBytes, leNat, ih, byteOf_toNat, Nat.pow_succ, Nat.mul_comm (256 ^ w) 256, Nat.mod_mul]

theorem leNat_leBytes_of_lt {w n : Nat} (h : n < 256 ^ w) : leNat (leBytes w n) = n := by
  rw [leNat_leBytes, Nat.mod_eq_of_lt h]

theorem leNat_lt (bs : List Byte) : leNat bs < 256 ^ bs.length := by
  induction bs with
  | nil => simp [leNat]
  | cons b bs ih =>
    have hb := b.isLt
    rw [leNat, List.length_cons, Nat.pow_succ]
    omega

@[simp] theorem zeros_length (n : Nat) : (zeros n).length = n := List.length_replicate

@[simp] theorem padTo_length (n : Nat) (bs : List Byte) : (padTo n bs).length = n := by simp [padTo]

/-- Padding of a list that fits adds the missing zeros. -/
theorem padTo_of_le {n : Nat} {bs : List Byte} (h : bs.length ≤ n) : padTo n bs = bs ++ zeros (n - bs.length) := by
  rw [padTo, List.take_append, List.take_of_length_le h, zeros, List.take_replicate, zeros]
  congr 2
  omega

/-- A field that lies in the first part of a record. -/
theorem fieldAt_append_left {xs : List Byte} (ys : List Byte) {offset w : Nat} (h : offset + w ≤ xs.length) :
    fieldAt (xs ++ ys) offset w = fieldAt xs offset w := by
  have h1 : (xs ++ ys).drop offset = xs.drop offset ++ ys := List.drop_append_of_le_length (by omega)
  rw [fieldAt, h1, List.take_append_of_le_length (by rw [List.length_drop]; omega), fieldAt]

/-- A field that lies behind the first part of a record. -/
theorem fieldAt_append_right (xs ys : List Byte) {offset : Nat} (w : Nat) (h : xs.length ≤ offset) :
    fieldAt (xs ++ ys) offset w = fieldAt ys (offset - xs.length) w := by
  rw [fieldAt, List.drop_append, List.drop_of_length_le h, List.nil_append, fieldAt]

/-- A field at the head of a record. -/
theorem fieldAt_head {xs : List Byte} (ys : List Byte) {w : Nat} (h : xs.length = w) :
    fieldAt (xs ++ ys) 0 w = leNat xs := by
  rw [fieldAt, List.drop_zero, List.take_left' h]

@[simp] theorem withCrc_length (bs : List Byte) : (withCrc bs).length = bs.length + 1 := by simp [withCrc]

@[simp] theorem Answer.frame_length (a : Answer) : a.frame.length = a.body.length + 5 := by
  simp [Answer.frame]

@[simp] theorem Request.frame_length (r : Request) : r.frame.length = r.body.length + 4 := by
  simp [Request.frame]

@[simp] theorem bitsOfByte_length (b : Byte) : (bitsOfByte b).length = 8 := rfl

@[simp] theorem flatMap_bitsOfByte_length (bytes : List Byte) : (bytes.flatMap bitsOfByte).length = 8 * bytes.length := by
  induction bytes with
  | nil => rfl
  | cons b bytes ih => rw [List.flatMap_cons, List.length_append, ih, List.length_cons, bitsOfByte_length]; omega

/-- R117: the bits of a byte, most significant first, spell that byte. -/
theorem byteOfBits_bitsOfByte (b : Byte) : byteOfBits (bitsOfByte b) = b := by
  revert b; decide +kernel

theorem bytesOfBits_bitsOfByte_append (b : Byte) (bits : List Bool) :
    bytesOfBits (bitsOfByte b ++ bits) = b :: bytesOfBits bits := by
  show byteOfBits (bitsOfByte b) :: bytesOfBits bits = _
  rw [byteOfBits_bitsOfByte]

/-- R123: a frame of a request is well formed and reads back as the request. -/
theorem frame_reads_back (r : Request) (h : r.body.length ≤ 60) : frameOk r.frame = true ∧ frameRequest r.frame = r := by
  have hd : r.frame.dropLast = byteOf (r.body.length + 4) :: r.tag :: r.code :: r.body := by
    rw [Request.frame, withCrc, List.dropLast_concat]
  constructor
  · have h0 : r.frame.headD 0 = byteOf (r.body.length + 4) := rfl
    have hl : r.frame.getLastD 0 = crc8 r.frame.dropLast := by
      rw [hd, Request.frame, withCrc, List.getLastD_eq_getLast?, List.getLast?_concat]; rfl
    rw [frameOk, hl, h0, byteOf_toNat, Request.frame_length]
    simp [Config.frameSize]
    omega
  · have h3 : (r.frame.drop 3).dropLast = r.body := by rw [Request.frame, withCrc]; simp
    rw [frameRequest, h3]
    rfl

end Sys2Proof.Machine
end

