-- ==== Sys2Proof/Laws/Table.lean ====
section
/-!
SUPPORT. The table: what is found after an entry is put, added or removed; entries keep their ids.
-/
namespace Sys2Proof.Machine

theorem findEntry_id {table : List Entry} {id : Nat} {e : Entry} (h : findEntry table id = some e) : e.id = id := by
  simpa using List.find?_some h

theorem findEntry_mem {table : List Entry} {id : Nat} {e : Entry} (h : findEntry table id = some e) : e ∈ table :=
  List.mem_of_find?_eq_some h

theorem findEntry_none {table : List Entry} {id : Nat} (h : findEntry table id = none) : ∀ e ∈ table, e.id ≠ id := by
  intro e he
  simpa using List.find?_eq_none.mp h e he

theorem findEntry_cons (x : Entry) (xs : List Entry) (id : Nat) :
    findEntry (x :: xs) id = if x.id = id then some x else findEntry xs id := by
  by_cases h : x.id = id <;> simp [findEntry, h]

@[simp] theorem findEntry_nil (id : Nat) : findEntry [] id = none := rfl

/-- A changed entry is found under its own id. -/
theorem findEntry_putEntry_self {table : List Entry} {e old : Entry} (h : findEntry table e.id = some old) :
    findEntry (putEntry table e) e.id = some e := by
  induction table with
  | nil => cases h
  | cons x xs ih =>
    rw [findEntry_cons] at h
    by_cases hx : x.id = e.id
    · simp [putEntry, findEntry_cons, hx]
    · rw [if_neg hx] at h
      simpa [putEntry, findEntry_cons, hx] using ih h

/-- Every other entry stays as it was. -/
theorem findEntry_putEntry_other (table : List Entry) (e : Entry) {id : Nat} (h : id ≠ e.id) :
    findEntry (putEntry table e) id = findEntry table id := by
  induction table with
  | nil => rfl
  | cons x xs ih =>
    by_cases hx : x.id = e.id
    · have : x.id ≠ id := fun hc => h (hc.symm.trans hx)
      simp [putEntry, findEntry_cons, hx, Ne.symm h] at ih ⊢
      simpa [this] using ih
    · simp only [putEntry, List.map_cons, if_neg hx, findEntry_cons] at ih ⊢
      rw [ih]

theorem putEntry_length (table : List Entry) (e : Entry) : (putEntry table e).length = table.length := by
  simp [putEntry]

/-- The ids of the table do not change when an entry is changed. -/
theorem putEntry_ids (table : List Entry) (e : Entry) : (putEntry table e).map Entry.id = table.map Entry.id := by
  unfold putEntry
  rw [List.map_map]
  apply List.map_congr_left
  intro x _
  by_cases h : x.id = e.id <;> simp [h]

theorem mem_putEntry {table : List Entry} {e x : Entry} (h : x ∈ putEntry table e) : x = e ∨ x ∈ table := by
  obtain ⟨y, hy, rfl⟩ := List.mem_map.mp h
  by_cases hc : y.id = e.id
  · exact .inl (by simp [hc])
  · exact .inr (by simpa [hc] using hy)

theorem mem_insertEntry {e x : Entry} {table : List Entry} : x ∈ insertEntry e table ↔ x = e ∨ x ∈ table := by
  induction table with
  | nil => simp [insertEntry]
  | cons y ys ih =>
    unfold insertEntry
    split
    · simp
    · rw [List.mem_cons, ih, List.mem_cons, or_left_comm]

theorem insertEntry_length (e : Entry) (table : List Entry) : (insertEntry e table).length = table.length + 1 := by
  induction table with
  | nil => rfl
  | cons y ys ih => unfold insertEntry; split <;> simp [ih]

/-- A new entry is found under its id. -/
theorem findEntry_insertEntry_self {table : List Entry} {e : Entry} (h : findEntry table e.id = none) :
    findEntry (insertEntry e table) e.id = some e := by
  induction table with
  | nil => simp [insertEntry, findEntry_cons]
  | cons y ys ih =>
    rw [findEntry_cons] at h
    by_cases hy : y.id = e.id
    · simp [hy] at h
    · rw [if_neg hy] at h
      unfold insertEntry
      split
      · simp [findEntry_cons]
      · rw [findEntry_cons, if_neg hy, ih h]

/-- Every other entry stays as it was. -/
theorem findEntry_insertEntry_other (table : List Entry) (e : Entry) {id : Nat} (h : id ≠ e.id) :
    findEntry (insertEntry e table) id = findEntry table id := by
  induction table with
  | nil => simp [insertEntry, findEntry_cons, Ne.symm h]
  | cons y ys ih =>
    unfold insertEntry
    split
    · rw [findEntry_cons, if_neg (Ne.symm h)]
    · rw [findEntry_cons, findEntry_cons, ih]

/-- A new id keeps the table in ascending order. -/
theorem insertEntry_pairwise {table : List Entry} {e : Entry} (hs : table.Pairwise fun x y => x.id < y.id)
    (hn : ∀ x ∈ table, x.id ≠ e.id) : (insertEntry e table).Pairwise fun x y => x.id < y.id := by
  induction table with
  | nil => simp [insertEntry]
  | cons y ys ih =>
    rw [List.pairwise_cons] at hs
    unfold insertEntry
    split
    · next hlt =>
      rw [List.pairwise_cons, List.pairwise_cons]
      refine ⟨fun x hx => ?_, hs⟩
      rcases List.mem_cons.mp hx with rfl | hx
      · exact hlt
      · exact Nat.lt_trans hlt (hs.1 x hx)
    · next hge =>
      have hy : y.id < e.id := by
        have := hn y (List.mem_cons_self ..)
        omega
      rw [List.pairwise_cons]
      refine ⟨fun x hx => ?_, ih hs.2 fun x hx => hn x (List.mem_cons_of_mem _ hx)⟩
      rcases mem_insertEntry.mp hx with rfl | hx
      · exact hy
      · exact hs.1 x hx

/-- R19: a removed id is found no more, and every other entry stays as it was. -/
theorem findEntry_removeEntry_self (table : List Entry) (id : Nat) : findEntry (removeEntry table id) id = none := by
  induction table with
  | nil => rfl
  | cons y ys ih =>
    by_cases h : y.id = id <;> simp [removeEntry, findEntry_cons, h] at ih ⊢ <;> simpa using ih

theorem findEntry_removeEntry_other (table : List Entry) {id i : Nat} (h : i ≠ id) :
    findEntry (removeEntry table id) i = findEntry table i := by
  induction table with
  | nil => rfl
  | cons y ys ih =>
    by_cases hy : y.id = id
    · have : y.id ≠ i := fun hc => h (hc.symm.trans hy)
      simp [removeEntry, findEntry_cons, hy] at ih ⊢
      rw [ih, if_neg (Ne.symm h)]
    · simp [removeEntry, findEntry_cons, hy] at ih ⊢
      rw [ih]

/-- Entries found after the override drop. -/
theorem findEntry_dropOverride (table : List Entry) (id : Nat) :
    findEntry (table.map Entry.dropOverride) id = (findEntry table id).map Entry.dropOverride := by
  induction table with
  | nil => rfl
  | cons y ys ih =>
    rw [List.map_cons, findEntry_cons, findEntry_cons, ih]
    by_cases h : y.id = id <;> simp [Entry.dropOverride, h]

/-! ### The fields that the computations on an entry keep -/

@[simp] theorem Entry.evaluate_id (b : Bool) (e : Entry) : (e.evaluate b).id = e.id := rfl
@[simp] theorem Entry.evaluate_data (b : Bool) (e : Entry) : (e.evaluate b).data = e.data := rfl
@[simp] theorem Entry.evaluate_score (b : Bool) (e : Entry) : (e.evaluate b).score = e.score := rfl
@[simp] theorem Entry.evaluate_override (b : Bool) (e : Entry) : (e.evaluate b).override = e.override := rfl
@[simp] theorem Entry.setScore_id (e : Entry) (n : Nat) : (e.setScore n).id = e.id := rfl
@[simp] theorem Entry.setScore_data (e : Entry) (n : Nat) : (e.setScore n).data = e.data := rfl
@[simp] theorem Entry.setScore_score (e : Entry) (n : Nat) : (e.setScore n).score = n := rfl
@[simp] theorem Entry.setScore_override (e : Entry) (n : Nat) : (e.setScore n).override = e.override := rfl
@[simp] theorem Entry.enterTag_id (t : Option Nat) (e : Entry) : (e.enterTag t).id = e.id := by cases t <;> rfl
@[simp] theorem Entry.enterTag_data (t : Option Nat) (e : Entry) : (e.enterTag t).data = e.data := by cases t <;> rfl
@[simp] theorem Entry.enterTag_override (t : Option Nat) (e : Entry) : (e.enterTag t).override = e.override := by
  cases t <;> rfl
@[simp] theorem Entry.addUnits_id (b n : Nat) (e : Entry) : (e.addUnits b n).id = e.id := rfl
@[simp] theorem Entry.addUnits_override (b n : Nat) (e : Entry) : (e.addUnits b n).override = e.override := rfl
@[simp] theorem Entry.addUnits_data (b n : Nat) (e : Entry) : (e.addUnits b n).data = e.data := rfl
@[simp] theorem Entry.addObservation_id (free : Nat) (d : RatioDef) (st : RatioState) (er ex : Nat) (pool : List EpochRecord)
    (e : Entry) : (e.addObservation free d st er ex pool).2.id = e.id := rfl
@[simp] theorem Entry.addObservation_override (free : Nat) (d : RatioDef) (st : RatioState) (er ex : Nat)
    (pool : List EpochRecord) (e : Entry) : (e.addObservation free d st er ex pool).2.override = e.override := rfl
@[simp] theorem Entry.setOverride_id (o : Override) (e : Entry) : (e.setOverride o).id = e.id := rfl
@[simp] theorem Entry.dropOverride_id (e : Entry) : e.dropOverride.id = e.id := rfl
@[simp] theorem Entry.clear_id (e : Entry) : e.clear.id = e.id := rfl
@[simp] theorem Entry.renew_id (e : Entry) : e.renew.id = e.id := rfl
@[simp] theorem Entry.rescore_id (e : Entry) : e.rescore.id = e.id := by unfold Entry.rescore; split <;> rfl
@[simp] theorem Entry.rescore_override (e : Entry) : e.rescore.override = e.override := by
  unfold Entry.rescore; split <;> rfl
@[simp] theorem Entry.amend_id (f : Fields) (e : Entry) : (e.amend f).id = e.id := by
  unfold Entry.amend; dsimp only; split <;> simp
@[simp] theorem Entry.amend_override (f : Fields) (e : Entry) : (e.amend f).override = e.override := by
  unfold Entry.amend; dsimp only; split <;> simp
@[simp] theorem Entry.accrue_id (a : Accrual) (e : Entry) : (e.accrue a).id = e.id := by
  unfold Entry.accrue
  split
  · split <;> simp
  · rfl
  · rfl
@[simp] theorem Entry.accrue_override (a : Accrual) (e : Entry) : (e.accrue a).override = e.override := by
  unfold Entry.accrue
  split
  · split <;> simp
  · rfl
  · rfl

/-! ### Bounds of the scores -/

/-- R26: a usage score lies in 1..100. -/
theorem usageScore_bounds (raw budget : Nat) : 1 ≤ usageScore raw budget ∧ usageScore raw budget ≤ 100 := by
  unfold usageScore
  generalize 100 * raw / budget = q
  omega

/-- R38: a RATIO score lies in 1..200. -/
theorem ratioScore_bounds (e x nominal : Nat) : 1 ≤ ratioScore e x nominal ∧ ratioScore e x nominal ≤ 200 := by
  unfold ratioScore
  generalize 100 * ratioRate e x / nominal = q
  omega

theorem satAdd48_le (a b : Nat) : satAdd48 a b ≤ Config.max48 := Nat.min_le_right ..

theorem satAdd32_le (a b : Nat) : satAdd32 a b ≤ Config.max32 := Nat.min_le_right ..

end Sys2Proof.Machine
end

