-- ==== Sys2Proof/Laws/Grants.lean ====
section
/-!
SUPPORT. What the service of a request leaves, by the shape of the service: nothing but the answer, one entry replaced, or
some notices and one block changed.
-/
namespace Sys2Proof.Machine

/-- R13, R14: an admitted request passes the checks at grant. -/
theorem Admitted.passes {s : State} {p : Port} {c : RequestCode} {k : SlotNo} {r : Request} (h : Admitted s p c k r) :
    (s.beginService p k r).checkFailure p c true = none := by
  rw [State.checkFailure_begin]
  apply State.checkFailure_none
  · by_cases hc : c = .attach
    · subst hc; exact .inl rfl
    · exact .inr (h.attached hc)
  · intro hc
    apply h.lease
    cases c <;> first | exact absurd hc (by decide) | decide
  · intro hc
    apply h.frozen
    cases c <;> first | exact absurd hc (by decide) | decide

/-- R13: the service of an admitted request with a well-formed body. -/
theorem Admitted.serve {s : State} {p : Port} {c : RequestCode} {k : SlotNo} {r : Request} {x : α}
    (h : Admitted s p c k r) (decode : List Byte → Option α) (service : State → SlotNo → α → State × Reply)
    (hd : decode r.body = some x) :
    s.serve p c decode service =
      (service (s.beginService p k r) k x).1.endService p k r (service (s.beginService p k r) k x).2 :=
  State.serve_passed h.granted decode service hd h.passes

/-- What a grant leaves when its service changed the state to `t` with no more of the ports than their notices. -/
theorem grantFrame_of {s t : State} {p : Port} {k : SlotNo} {r : Request} {notices : Port → NoticeUnit}
    (hports : ∀ q, t.ports.get q = { (s.beginService p k r).ports.get q with notices := notices q })
    (hls : t.lastServed = p) (hphase : t.phase = s.phase) (haccrual : t.accrual = s.accrual) (hlink : t.link = s.link)
    (hstart : t.startup = s.startup) (hpins : t.pins = s.pins) (hpend : t.pending = s.pending)
    (hfree : t.freeIndex = s.freeIndex) (result : ResultCode) (body : List Byte) :
    GrantFrame s (t.endService p k r (.answer result body)) p k (r.reply result body) notices where
  ports := State.answered_get hports result body
  lastServed := hls
  phase := hphase
  accrual := haccrual
  link := hlink
  startup := hstart
  pins := hpins
  queue := ⟨hpend, hfree⟩

/-- A service that changes nothing leaves the answer alone. -/
theorem answersOnly_of (s : State) (p : Port) (k : SlotNo) (r : Request) (result : ResultCode) (body : List Byte) :
    AnswersOnly s ((s.beginService p k r).endService p k r (.answer result body)) p k (r.reply result body) where
  frame := grantFrame_of (s := s) (t := s.beginService p k r) (p := p) (k := k) (r := r) (fun q => by
      rw [← State.beginService_notices s p q k r]) rfl rfl rfl rfl rfl rfl rfl rfl result body
  table := rfl
  pool := rfl
  lines := ⟨rfl, rfl⟩
  lease := rfl
  snap := rfl

/-- The lines match the table after `refreshLines`. -/
theorem linesFollow_refresh (s : State) : LinesFollow s.refreshLines := ⟨rfl, rfl⟩

/-- What a service leaves that puts `after` in the place of `before` (with another pool, perhaps), counts one change and
refreshes the lines. -/
theorem replacesEntry_of {s : State} {before after : Entry} (pool : List EpochRecord)
    (hf : findEntry s.table before.id = some before) (hid : after.id = before.id) (p : Port) (k : SlotNo) (r : Request)
    (result : ResultCode) (body : List Byte) :
    ReplacesEntry s
      (((State.replaceEntry { s.beginService p k r with pool := pool } before after).addChanges 1).refreshLines.endService
        p k r (.answer result body)) p k (r.reply result body) before after 1 where
  frame := grantFrame_of
    (fun q => by
      rw [State.refreshLines_ports, State.addChanges_ports, State.replaceEntry_get]
      have h : ∀ q : Port, noticesAfter before after ((s.beginService p k r).ports.get q) =
          noticesAfter before after (s.ports.get q) := by intro q; unfold noticesAfter; simp
      simp only [h])
    (by simp [State.beginService]) (by simp [State.beginService]) (by simp [State.beginService])
    (by simp [State.beginService]) (by simp [State.beginService]) (by simp [State.beginService])
    (by simp [State.beginService]) (by simp [State.beginService]) result body
  entry := by
    show findEntry (State.table (State.modifyPort _ _ _)) _ = _
    simp only [State.modifyPort_table, State.refreshLines_table, State.addChanges_table, State.replaceEntry_table]
    exact findEntry_putEntry_self (by rw [hid]; exact hf)
  others := fun id h => by
    show findEntry (State.table (State.modifyPort _ _ _)) _ = _
    simp only [State.modifyPort_table, State.refreshLines_table, State.addChanges_table, State.replaceEntry_table]
    exact findEntry_putEntry_other _ _ h
  length := by
    show (State.table (State.modifyPort _ _ _)).length = _
    simp only [State.modifyPort_table, State.refreshLines_table, State.addChanges_table, State.replaceEntry_table]
    exact putEntry_length _ _
  lines := linesFollow_refresh _
  lease := by
    show State.lease (State.modifyPort _ _ _) = _
    simp [State.beginService]
  snap := by
    show State.snap (State.modifyPort _ _ _) = _
    simp [State.beginService, State.addChanges, satAdd32, Config.max32]

end Sys2Proof.Machine
end

