-- ==== Sys2Proof/Laws/Notices.lean ====
section
/-!
SUPPORT. Every operation on a port's part of the notice unit keeps it sound (R84, R90, R91).
-/
namespace Sys2Proof.Machine

theorem NoticeUnit.empty_sound : NoticeUnit.empty.Sound where
  length := by decide
  counter := by decide
  sequences := by decide
  delivered := by decide
  once := by decide
  watch := by decide

theorem Notice.isOpenVerdict_openId {id : Nat} {x : Notice} (h : x.isOpenVerdict id = true) : x.openId = some id := by
  obtain ⟨seq, body, delivered⟩ := x
  cases body <;> cases delivered <;> simp_all [Notice.isOpenVerdict, Notice.openId]

theorem Notice.isOpenRetired_openId {id : Nat} {x : Notice} (h : x.isOpenRetired id = true) : x.openId = some id := by
  obtain ⟨seq, body, delivered⟩ := x
  cases body <;> cases delivered <;> simp_all [Notice.isOpenRetired, Notice.openId]

/-- R91: an undelivered notice with an id is an open VERDICT or an open RETIRED notice. -/
theorem Notice.openId_some {id : Nat} {x : Notice} (h : x.openId = some id) :
    x.isOpenVerdict id = true ∨ x.isOpenRetired id = true := by
  obtain ⟨seq, body, delivered⟩ := x
  cases body <;> cases delivered <;> simp_all [Notice.isOpenVerdict, Notice.isOpenRetired, Notice.openId]

/-- A change of the notices of a queue that keeps sequence, delivered flag and open id keeps the unit sound. -/
theorem NoticeUnit.Sound.mapQueue {n : NoticeUnit} (h : n.Sound) (f : Notice → Notice)
    (hf : ∀ x, (f x).seq = x.seq ∧ (f x).delivered = x.delivered ∧ (f x).openId = x.openId) :
    ({ n with queue := n.queue.map f } : NoticeUnit).Sound where
  length := by simpa using h.length
  counter := h.counter
  sequences := by
    have hs : (n.queue.map f).map Notice.seq = n.queue.map Notice.seq := by
      rw [List.map_map]; exact List.map_congr_left fun x _ => (hf x).1
    simpa [hs] using h.sequences
  delivered := by
    refine List.pairwise_map.2 (h.delivered.imp fun {x y} hxy hd => ?_)
    rw [(hf x).2.1]; exact hxy ((hf y).2.1 ▸ hd)
  once := by
    refine List.pairwise_map.2 (h.once.imp fun {x y} hxy => ?_)
    rw [(hf x).2.2, (hf y).2.2]; exact hxy
  watch := h.watch

/-- R90: a new notice joins the end of a queue that has room, or is lost. -/
theorem NoticeUnit.Sound.append {n : NoticeUnit} (h : n.Sound) (body : NoticeBody)
    (hnew : ∀ x ∈ n.queue, x.openId = none ∨ x.openId ≠ (⟨0, body, false⟩ : Notice).openId) : (n.append body).Sound := by
  unfold NoticeUnit.append
  split
  · next hl =>
    have hl' : n.queue.length < 16 := hl
    have hc := h.counter
    refine ⟨by simp only [List.length_append, List.length_singleton]; exact hl, Nat.mod_lt _ (by decide), ?_, ?_, ?_, h.watch⟩
    · simp only [List.map_append, List.map_cons, List.map_nil, List.length_append, List.length_cons, List.length_nil,
        h.sequences, List.range_succ, Nat.zero_add]
      congr 1
      · refine List.map_congr_left fun i hi => ?_
        have := List.mem_range.1 hi
        omega
      · congr 1; omega
    · refine List.pairwise_append.2 ⟨h.delivered, List.pairwise_singleton _ _, fun x _ y hy hd => ?_⟩
      rw [List.mem_singleton.1 hy] at hd; cases hd
    · refine List.pairwise_append.2 ⟨h.once, List.pairwise_singleton _ _, fun x hx y hy => ?_⟩
      rw [List.mem_singleton.1 hy]; exact hnew x hx
  · exact ⟨h.length, h.counter, h.sequences, h.delivered, h.once, h.watch⟩

theorem NoticeUnit.Sound.lose {n : NoticeUnit} (h : n.Sound) (b : Bool) : ({ n with lost := b } : NoticeUnit).Sound :=
  ⟨h.length, h.counter, h.sequences, h.delivered, h.once, h.watch⟩

theorem NoticeUnit.Sound.appendSystem {n : NoticeUnit} (h : n.Sound) (ev : SystemEvent) : (n.append (.system ev)).Sound :=
  h.append _ fun x _ => by
    cases hx : x.openId
    · exact .inl rfl
    · exact .inr (by simp [Notice.openId])

theorem Notice.absorb_keeps (ev : VerdictEvent) (x : Notice) :
    (x.absorb ev).seq = x.seq ∧ (x.absorb ev).delivered = x.delivered ∧ (x.absorb ev).openId = x.openId := by
  obtain ⟨seq, body, delivered⟩ := x
  cases body <;> exact ⟨rfl, rfl, rfl⟩

theorem Notice.retire_keeps (score : Nat) (x : Notice) :
    (x.retire score).seq = x.seq ∧ (x.retire score).delivered = x.delivered ∧ (x.retire score).openId = x.openId := by
  obtain ⟨seq, body, delivered⟩ := x
  cases body <;> exact ⟨rfl, rfl, rfl⟩

/-- No notice of the queue is open for an id that neither search finds. -/
theorem NoticeUnit.noOpen {n : NoticeUnit} {id : Nat} (hv : ¬ n.queue.any (Notice.isOpenVerdict id) = true)
    (hr : ¬ n.queue.any (Notice.isOpenRetired id) = true) : ∀ x ∈ n.queue, x.openId ≠ some id := by
  intro x hx ho
  rcases Notice.openId_some ho with h | h
  · exact hv (List.any_eq_true.2 ⟨x, hx, h⟩)
  · exact hr (List.any_eq_true.2 ⟨x, hx, h⟩)

/-- R92, R93: a verdict change event. -/
theorem NoticeUnit.Sound.onVerdict {n : NoticeUnit} (h : n.Sound) (ev : VerdictEvent) : (n.onVerdict ev).Sound := by
  unfold NoticeUnit.onVerdict
  split
  · split
    · refine h.mapQueue _ fun x => ?_
      split
      · exact Notice.absorb_keeps ev x
      · exact ⟨rfl, rfl, rfl⟩
    · next hv =>
      split
      · exact h.lose true
      · next hr =>
        refine h.append _ fun x hx => .inr ?_
        simpa [Notice.openId] using NoticeUnit.noOpen hv hr x hx
  · exact h

/-- R94: a retirement event. -/
theorem NoticeUnit.Sound.retireQueue {n : NoticeUnit} (h : n.Sound) (id score : Nat) : (n.retireQueue id score).Sound := by
  unfold NoticeUnit.retireQueue
  split
  · refine h.mapQueue _ fun x => ?_
    split
    · exact Notice.retire_keeps score x
    · exact ⟨rfl, rfl, rfl⟩
  · next hv =>
    split
    · split
      · refine h.mapQueue _ fun x => ?_
        split
        · exact Notice.retire_keeps score x
        · exact ⟨rfl, rfl, rfl⟩
      · next hr =>
        refine h.append _ fun x hx => .inr ?_
        simpa [Notice.openId] using NoticeUnit.noOpen hv hr x hx
    · exact h

theorem NoticeUnit.Sound.unwatch {n : NoticeUnit} (h : n.Sound) (id : Nat) : (n.unwatch id).Sound :=
  ⟨h.length, h.counter, h.sequences, h.delivered, h.once,
   Nat.le_trans (List.length_filter_le _ _) h.watch.1, h.watch.2.filter _⟩

theorem mem_insertId {id i : Nat} {ids : List Nat} : i ∈ insertId id ids ↔ i = id ∨ i ∈ ids := by
  induction ids with
  | nil => simp [insertId]
  | cons x xs ih =>
    unfold insertId
    split
    · simp
    · rw [List.mem_cons, ih, List.mem_cons]
      constructor <;> (rintro (h | h | h) <;> simp [h])

theorem insertId_perm (id : Nat) (ids : List Nat) : (insertId id ids).Perm (id :: ids) := by
  induction ids with
  | nil => exact List.Perm.refl _
  | cons x xs ih =>
    unfold insertId
    split
    · exact List.Perm.refl _
    · exact (ih.cons x).trans (List.Perm.swap id x xs)

theorem insertId_pairwise {id : Nat} {ids : List Nat} (hs : ids.Pairwise (· < ·)) (hn : id ∉ ids) :
    (insertId id ids).Pairwise (· < ·) := by
  induction ids with
  | nil => exact List.pairwise_singleton _ _
  | cons x xs ih =>
    obtain ⟨hx, hxs⟩ := List.pairwise_cons.1 hs
    have hne : id ≠ x := fun he => hn (he ▸ List.mem_cons_self)
    unfold insertId
    split
    · next hlt =>
      refine List.pairwise_cons.2 ⟨fun y hy => ?_, hs⟩
      rcases List.mem_cons.1 hy with rfl | hy
      · exact hlt
      · exact Nat.lt_trans hlt (hx y hy)
    · next hlt =>
      refine List.pairwise_cons.2 ⟨fun y hy => ?_, ih hxs fun h => hn (List.mem_cons_of_mem _ h)⟩
      rcases mem_insertId.1 hy with rfl | hy
      · omega
      · exact hx y hy

/-- R85: an id joins a watch list that has room. -/
theorem NoticeUnit.Sound.watchId {n : NoticeUnit} (h : n.Sound) {id : Nat} (hn : id ∉ n.watch)
    (hl : n.watch.length < Config.watchSize) : ({ n with watch := insertId id n.watch } : NoticeUnit).Sound :=
  ⟨h.length, h.counter, h.sequences, h.delivered, h.once,
   by rw [(insertId_perm id n.watch).length_eq]; exact hl, insertId_pairwise h.watch.2 hn⟩

/-- R98: a FETCH. -/
theorem NoticeUnit.Sound.fetch {n : NoticeUnit} (h : n.Sound) : n.fetch.Sound := by
  have hd := h.delivered
  have ho := h.once
  rw [← List.take_append_drop Config.fetchSize n.queue, List.pairwise_append] at hd ho
  refine ⟨?_, h.counter, ?_, ?_, ?_, h.watch⟩
  · have hl := h.length
    simp only [NoticeUnit.fetch, List.length_append, List.length_map, List.length_take, List.length_drop]
    omega
  · have hq : n.fetch.queue.map Notice.seq = n.queue.map Notice.seq := by
      simp only [NoticeUnit.fetch, List.map_append, List.map_map]
      have : (Notice.seq ∘ fun x => ({ x with delivered := true } : Notice)) = Notice.seq := rfl
      rw [this, ← List.map_append, List.take_append_drop]
    have hl : n.fetch.queue.length = n.queue.length := by rw [← List.length_map Notice.seq, hq, List.length_map]
    rw [hq, hl]
    exact h.sequences
  · refine List.pairwise_append.2 ⟨List.pairwise_map.2 (hd.1.imp fun _ _ => rfl), hd.2.1, fun x hx y _ _ => ?_⟩
    obtain ⟨z, -, rfl⟩ := List.mem_map.1 hx
    rfl
  · refine List.pairwise_append.2 ⟨List.pairwise_map.2 (ho.1.imp fun _ => .inl rfl), ho.2.1, fun x hx y _ => ?_⟩
    obtain ⟨z, -, rfl⟩ := List.mem_map.1 hx
    exact .inl rfl

/-- R99: notices leave the head of the queue. -/
theorem NoticeUnit.Sound.dropQueue {n : NoticeUnit} (h : n.Sound) (k : Nat) :
    ({ n with queue := n.queue.drop k } : NoticeUnit).Sound := by
  refine ⟨?_, h.counter, ?_, h.delivered.sublist (List.drop_sublist _ _), h.once.sublist (List.drop_sublist _ _), h.watch⟩
  · simp only [List.length_drop]; exact Nat.le_trans (Nat.sub_le _ _) h.length
  · have hl : n.queue.length ≤ 16 := h.length
    have hc := h.counter
    simp only [List.map_drop, h.sequences, List.length_drop]
    apply List.ext_getElem
    · simp
    · intro i h1 h2
      simp only [List.length_map, List.length_range] at h2
      simp only [List.getElem_drop, List.getElem_map, List.getElem_range]
      omega

end Sys2Proof.Machine
end

