-- ==== Sys2Proof/Laws/Pool.lean ====
section
/-!
SUPPORT. The epoch pool: what clearing, adding, closing and arranging records does.
-/
namespace Sys2Proof.Machine

/-- A record after one record of the pool has been replaced. -/
theorem recordAt_set (pool : List EpochRecord) (m n : Nat) (r : EpochRecord) :
    recordAt (pool.set m r) n = if n = m ∧ m < pool.length then r else recordAt pool n := by
  simp only [recordAt, List.getD_eq_getElem?_getD, List.getElem?_set]
  by_cases h : m = n
  · subst h
    by_cases hl : m < pool.length
    · simp [hl]
    · simp [hl]
  · simp [h, Ne.symm h]

/-- R43: a cleared record holds zero counts, every other one is as it was. -/
theorem recordAt_clearRecords (ns : List Nat) (pool : List EpochRecord) (n : Nat) :
    recordAt (clearRecords pool ns) n = if n ∈ ns then .zero else recordAt pool n := by
  induction ns generalizing pool with
  | nil => simp [clearRecords]
  | cons m ms ih =>
    have h := ih (pool.set m .zero)
    simp only [clearRecords, List.foldl_cons] at h ⊢
    rw [h, recordAt_set]
    by_cases hm : n ∈ ms
    · simp [hm]
    · by_cases he : n = m
      · subst he
        by_cases hl : n < pool.length
        · simp [hl]
        · simp [hm, hl, recordAt]
      · simp [hm, he]

theorem clearRecords_length (pool : List EpochRecord) (ns : List Nat) : (clearRecords pool ns).length = pool.length := by
  induction ns generalizing pool with
  | nil => rfl
  | cons m ms ih =>
    have h := ih (pool.set m .zero)
    simp only [clearRecords, List.foldl_cons] at h ⊢
    rw [h, List.length_set]

theorem ascending_pairwise (ns : List Nat) : (ascending ns).Pairwise (· < ·) :=
  List.Pairwise.filter _ List.pairwise_lt_range

theorem mem_ascending {ns : List Nat} {n : Nat} : n ∈ ascending ns ↔ n < Config.poolSize ∧ n ∈ ns := by
  simp [ascending]

/-- R43: records in ascending order are the same records. -/
theorem ascending_perm {ns : List Nat} (hn : ns.Nodup) (hlt : ∀ n ∈ ns, n < Config.poolSize) :
    (ascending ns).Perm ns := by
  refine (List.perm_ext_iff_of_nodup ?_ hn).2 fun n => ?_
  · exact (ascending_pairwise ns).imp (fun h => Nat.ne_of_lt h)
  · rw [mem_ascending]
    exact ⟨And.right, fun h => ⟨hlt n h, h⟩⟩

/-- R41, R42: the free records are those of the pool that no entry holds, in ascending order. -/
theorem mem_freeRecords {table : List Entry} {n : Nat} :
    n ∈ freeRecords table ↔ n < Config.poolSize ∧ n ∉ heldRecords table := by
  simp [freeRecords, recordFree]

theorem freeRecords_pairwise (table : List Entry) : (freeRecords table).Pairwise (· < ·) :=
  List.Pairwise.filter _ List.pairwise_lt_range

/-- R34: a sum that the 32-bit counts can hold is held exactly. -/
theorem EpochRecord.add_exact {r : EpochRecord} {errors exposure : Nat} (hr : r.errors + errors ≤ Config.max32)
    (hx : r.exposure + exposure ≤ Config.max32) (free n : Nat) :
    r.add free n errors exposure = ⟨r.errors + errors, r.exposure + exposure⟩ := by
  simp only [EpochRecord.add, if_pos hr, if_pos hx]

/-- R34: whatever the free values are, both counts stay below 2^32, and the errors do not pass the exposure. -/
theorem EpochRecord.add_bounds {r : EpochRecord} {errors exposure : Nat} (hr : r.errors ≤ r.exposure)
    (he : errors ≤ exposure) (hx : 1 ≤ exposure) (free n : Nat) :
    (r.add free n errors exposure).errors ≤ (r.add free n errors exposure).exposure ∧
      1 ≤ (r.add free n errors exposure).exposure ∧ (r.add free n errors exposure).exposure ≤ Config.max32 := by
  have hm : Config.max32 = 4294967295 := rfl
  have ht : Config.two32 = 4294967296 := rfl
  have hv : Config.overflowedErrors free n (r.errors + errors) (r.exposure + exposure) % Config.two32 < Config.two32 :=
    Nat.mod_lt _ (by decide)
  dsimp only [EpochRecord.add]
  generalize Config.overflowedErrors free n (r.errors + errors) (r.exposure + exposure) % Config.two32 = v at hv
  generalize Config.overflowedExposure free n (r.errors + errors) (r.exposure + exposure) = y
  by_cases h1 : r.exposure + exposure ≤ Config.max32
  · rw [if_pos h1, if_pos (show r.errors + errors ≤ Config.max32 by omega)]
    exact ⟨by omega, by omega, h1⟩
  · rw [if_neg h1]
    have hw : (if r.errors + errors ≤ Config.max32 then r.errors + errors else v) ≤ Config.max32 := by split <;> omega
    generalize (if r.errors + errors ≤ Config.max32 then r.errors + errors else v) = w at hw
    have hf := Nat.mod_lt y (show 0 < Config.two32 - max 1 w by omega)
    exact ⟨by omega, by omega, by omega⟩

/-- R31: the record that receives an item's counts. -/
theorem recordAt_addCounts {pool : List EpochRecord} {m : Nat} (hm : m < pool.length) (free errors exposure n : Nat) :
    recordAt (addCounts free pool m errors exposure) n =
      if n = m then (recordAt pool m).add free m errors exposure else recordAt pool n := by
  rw [addCounts, recordAt_set]
  simp [hm]

/-- R32: below the epoch size the open epoch stays open. -/
theorem closeEpoch_open {d : RatioDef} {pool : List EpochRecord} {st : RatioState}
    (h : (recordAt pool st.opened).exposure < d.epochSize) : closeEpoch d pool st = (pool, st) := by
  rw [closeEpoch, if_pos h]

/-- R32, R34: at the epoch size the open epoch becomes the newest closed one, and a spare becomes the open one, empty. -/
theorem closeEpoch_close {d : RatioDef} {pool : List EpochRecord} {st : RatioState} {x : Nat} {xs : List Nat}
    (h : d.epochSize ≤ (recordAt pool st.opened).exposure) (hd : st.closed.length < d.depth) (hs : st.spares = x :: xs) :
    closeEpoch d pool st =
      (pool.set x .zero, { st with closed := st.closed ++ [st.opened], opened := x, spares := xs }) := by
  rw [closeEpoch, if_neg (Nat.not_lt.2 h), if_pos hd, hs]

/-- R33: with a full window the oldest closed epoch is evicted and becomes the open one. -/
theorem closeEpoch_evict {d : RatioDef} {pool : List EpochRecord} {st : RatioState} {x : Nat} {xs : List Nat}
    (h : d.epochSize ≤ (recordAt pool st.opened).exposure) (hd : d.depth ≤ st.closed.length) (hs : st.closed = x :: xs) :
    closeEpoch d pool st = (pool.set x .zero, { st with closed := xs ++ [st.opened], opened := x }) := by
  rw [closeEpoch, if_neg (Nat.not_lt.2 h), if_neg (Nat.not_lt.2 hd), hs]

/-- The records of an entry of the table are among the held ones. -/
theorem mem_heldRecords {table : List Entry} {n : Nat} : n ∈ heldRecords table ↔ ∃ e ∈ table, n ∈ e.records := by
  simp [heldRecords]

/-- R174: with no record named twice, an entry of the table names each of its records once. -/
theorem records_nodup {table : List Entry} {e : Entry} (h : (heldRecords table).Nodup) (he : e ∈ table) :
    e.records.Nodup := by
  induction table with
  | nil => cases he
  | cons x xs ih =>
    rw [heldRecords, List.flatMap_cons, List.nodup_append] at h
    rcases List.mem_cons.1 he with rfl | he
    · exact h.1
    · exact ih h.2.1 he

end Sys2Proof.Machine
end

