-- ==== Sys2Proof/Laws/Report.lean ====
section
/-!
SUPPORT. What the items of a REPORT can change (R69, R73): the table, the pool and the notices of the ports; and on what
their effect depends: on these and on which ports are attached.
-/
namespace Sys2Proof.Machine

/-- A change that reaches the table, the pool and the notices of the ports, and nothing else. -/
def ItemsFrame (s t : State) : Prop :=
  t = { s with table := t.table, pool := t.pool, ports := t.ports } ∧
    ∀ q, t.ports.get q = { s.ports.get q with notices := (t.ports.get q).notices }

/-- Two states that look alike to the items of a REPORT. -/
def ItemsAgree (s t : State) : Prop :=
  t.table = s.table ∧ t.pool = s.pool ∧ t.freeIndex = s.freeIndex ∧
    ∀ q, (t.ports.get q).attached = (s.ports.get q).attached ∧ (t.ports.get q).notices = (s.ports.get q).notices

theorem ItemsFrame.refl (s : State) : ItemsFrame s s := ⟨rfl, fun _ => rfl⟩

theorem ItemsFrame.trans {s t u : State} (h : ItemsFrame s t) (k : ItemsFrame t u) : ItemsFrame s u := by
  refine ⟨?_, fun q => ?_⟩
  · rw [k.1, h.1]
  · rw [k.2 q, h.2 q]

/-- A changed entry with a changed pool. -/
theorem itemsFrame_replaceEntry (s : State) (pool : List EpochRecord) (e e' : Entry) :
    ItemsFrame s (State.replaceEntry { s with pool := pool } e e') := by
  refine ⟨?_, fun q => ?_⟩
  · unfold State.replaceEntry State.publish State.verdictEvent State.notifyAttached
    split <;> rfl
  · rw [State.replaceEntry_get]

/-- The effect of a changed entry on two states that look alike. -/
theorem itemsAgree_replaceEntry {s t : State} (h : ItemsAgree s t) {pool pool' : List EpochRecord} (hp : pool' = pool)
    (e : Entry) {after after' : Entry} (he : after' = after) :
    ItemsAgree (State.replaceEntry { s with pool := pool } e after)
      (State.replaceEntry { t with pool := pool' } e after') := by
  subst he
  refine ⟨?_, ?_, ?_, fun q => ?_⟩
  · unfold State.replaceEntry State.publish State.verdictEvent State.notifyAttached
    split <;> simp [h.1]
  · unfold State.replaceEntry State.publish State.verdictEvent State.notifyAttached
    split <;> simp [hp]
  · unfold State.replaceEntry State.publish State.verdictEvent State.notifyAttached
    split <;> simp [h.2.2.1]
  · rw [State.replaceEntry_get, State.replaceEntry_get]
    have hq := h.2.2.2 q
    refine ⟨hq.1, ?_⟩
    show noticesAfter e after' (t.ports.get q) = noticesAfter e after' (s.ports.get q)
    unfold noticesAfter
    rw [hq.1, hq.2]

/-- R69: one item changes the table, the pool and notices at most. -/
theorem State.applyItem_frame (s : State) (i : Item) : ItemsFrame s (s.applyItem i).1 := by
  unfold State.applyItem
  split
  · exact ItemsFrame.refl s
  · split
    · exact ItemsFrame.refl s
    · split
      · exact itemsFrame_replaceEntry s s.pool _ _
      · exact itemsFrame_replaceEntry s _ _ _
      all_goals exact ItemsFrame.refl s

/-- One item does the same to two states that look alike to it. -/
theorem State.applyItem_agree {s t : State} (h : ItemsAgree s t) (i : Item) :
    (t.applyItem i).2 = (s.applyItem i).2 ∧ ItemsAgree (s.applyItem i).1 (t.applyItem i).1 := by
  have hfind : findEntry t.table i.id = findEntry s.table i.id := by rw [h.1]
  unfold State.applyItem
  rw [hfind]
  cases findEntry s.table i.id with
  | none => exact ⟨rfl, h⟩
  | some e =>
    dsimp only
    by_cases hd : i.tag.any e.tags.contains = true
    · rw [if_pos hd, if_pos hd]; exact ⟨rfl, h⟩
    · rw [if_neg hd, if_neg hd]
      cases e.data <;> cases i.value
      case tally.tally => exact ⟨rfl, itemsAgree_replaceEntry h h.2.1 e rfl⟩
      case ratio.ratio => refine ⟨rfl, itemsAgree_replaceEntry h ?_ e ?_⟩ <;> rw [h.2.1, h.2.2.1]
      all_goals exact ⟨rfl, h⟩

/-- R69, R73: a batch changes the table, the pool and notices at most. -/
theorem State.applyItems_frame (s : State) (is : List Item) : ItemsFrame s (s.applyItems is).1 := by
  induction is generalizing s with
  | nil => exact ItemsFrame.refl s
  | cons i is ih => exact (s.applyItem_frame i).trans (ih _)

/-- A batch does the same to two states that look alike to it. -/
theorem State.applyItems_agree {s t : State} (h : ItemsAgree s t) (is : List Item) :
    (t.applyItems is).2 = (s.applyItems is).2 ∧ ItemsAgree (s.applyItems is).1 (t.applyItems is).1 := by
  induction is generalizing s t with
  | nil => exact ⟨rfl, h⟩
  | cons i is ih =>
    have h1 := State.applyItem_agree h i
    have h2 := ih h1.2
    refine ⟨?_, h2.2⟩
    show (t.applyItem i).2.toNat + _ = (s.applyItem i).2.toNat + _
    rw [h1.1, h2.1]

/-- No more items are applied than there are. -/
theorem State.applyItems_le (s : State) (is : List Item) : (s.applyItems is).2 ≤ is.length := by
  induction is generalizing s with
  | nil => exact Nat.le_refl 0
  | cons i is ih =>
    have h := ih (s.applyItem i).1
    show (s.applyItem i).2.toNat + ((s.applyItem i).1.applyItems is).2 ≤ is.length + 1
    have hb : (s.applyItem i).2.toNat ≤ 1 := by cases (s.applyItem i).2 <;> decide
    omega

end Sys2Proof.Machine
end

