-- ==== Sys2Proof/Laws/Snapshots.lean ====
section
/-!
SUPPORT. What the end of a snapshot does to the waiting SAVEs and to the snapshot unit (R142, R149, R150).
-/
namespace Sys2Proof.Machine

/-- R142: answering one waiting SAVE. -/
theorem State.answerSave_get (result : ResultCode) (body : List Byte) (s : State) (w : WaitingSave) {r : Request}
    (h : (s.ports.get w.port).slots.get w.slot = .waiting r) (p : Port) :
    (s.answerSave result body w).ports.get p =
      if p = w.port then (s.ports.get p).answerSlot w.slot (r.reply result body) else s.ports.get p := by
  unfold State.answerSave
  rw [State.modifyPort_get]
  split
  · next hp => subst hp; simp only [h]; rfl
  · rfl

/-- R142: answering SAVEs changes of the state the ports alone. -/
theorem State.foldl_answerSave_rest (result : ResultCode) (body : List Byte) (ws : List WaitingSave) (s : State) :
    ws.foldl (State.answerSave result body) s = { s with ports := (ws.foldl (State.answerSave result body) s).ports } := by
  induction ws generalizing s with
  | nil => rfl
  | cons w ws ih => rw [List.foldl_cons, ih]; rfl

/-- R142: what answering SAVEs of different slots, in list order, does to one port. -/
theorem State.foldl_answerSave_get (result : ResultCode) (body : List Byte) (ws : List WaitingSave) (s : State)
    (hw : ∀ w ∈ ws, ∃ r, (s.ports.get w.port).slots.get w.slot = .waiting r)
    (hn : (ws.map fun w => (w.port, w.slot)).Nodup) (p : Port) :
    let t := ws.foldl (State.answerSave result body) s
    t.ports.get p =
        { s.ports.get p with
          slots := (t.ports.get p).slots
          answers := (s.ports.get p).answers ++ (ws.filter fun w => decide (w.port = p)).map WaitingSave.slot } ∧
      (∀ w ∈ ws, ∀ r, w.port = p → (s.ports.get p).slots.get w.slot = .waiting r →
        (t.ports.get p).slots.get w.slot = .answered (r.reply result body)) ∧
      ∀ k, (∀ w ∈ ws, w.port = p → w.slot ≠ k) → (t.ports.get p).slots.get k = (s.ports.get p).slots.get k := by
  induction ws generalizing s with
  | nil => simp
  | cons w ws ih =>
    obtain ⟨r, hr⟩ := hw w (List.mem_cons_self ..)
    rw [List.map_cons, List.nodup_cons] at hn
    have hne : ∀ x ∈ ws, x.port = w.port → x.slot ≠ w.slot := by
      intro x hx hp hs
      exact hn.1 (List.mem_map.mpr ⟨x, hx, by rw [hp, hs]⟩)
    have hget := State.answerSave_get result body s w hr
    have hslot : ∀ q k, (q = w.port → k ≠ w.slot) →
        ((s.answerSave result body w).ports.get q).slots.get k = (s.ports.get q).slots.get k := by
      intro q k hk
      rw [hget]
      split
      · next h => exact Slots.get_set_other _ _ (hk h)
      · rfl
    have hw' : ∀ x ∈ ws, ∃ r, ((s.answerSave result body w).ports.get x.port).slots.get x.slot = .waiting r := by
      intro x hx
      obtain ⟨rx, hrx⟩ := hw x (List.mem_cons_of_mem _ hx)
      exact ⟨rx, by rw [hslot _ _ fun h => hne x hx h]; exact hrx⟩
    obtain ⟨h1, h2, h3⟩ := ih (s.answerSave result body w) hw' hn.2
    rw [List.foldl_cons]
    refine ⟨?_, ?_, ?_⟩
    · rw [h1, hget]
      by_cases hp : p = w.port
      · subst hp; simp [PortState.answerSlot]
      · simp [hp, Ne.symm hp]
    · intro x hx rx hxp hrx
      rcases List.mem_cons.mp hx with rfl | hx
      · rw [h3 x.slot fun y hy hyp => hne y hy (hyp.trans hxp.symm), hget, if_pos hxp.symm]
        subst hxp
        rw [hr] at hrx
        injection hrx with hrx
        subst hrx
        exact Slots.get_set_self ..
      · refine h2 x hx rx hxp ?_
        rw [hslot p x.slot fun h => hne x hx (hxp.trans h)]
        exact hrx
    · intro k hk
      rw [h3 k fun x hx => hk x (List.mem_cons_of_mem _ hx), hslot p k]
      intro hp hkw
      exact hk w (List.mem_cons_self ..) hp.symm hkw.symm

/-! ### The end of a snapshot -/

/-- R142: the SAVEs that the end of a snapshot answers are WAITING in their slots, none twice. -/
theorem due_waiting {s : State} (h : PortsSound s) :
    (∀ w ∈ s.snap.due, ∃ r, (s.ports.get w.port).slots.get w.slot = .waiting r) ∧
      (s.snap.due.map fun w => (w.port, w.slot)).Nodup := by
  constructor
  · intro w hw
    have := List.mem_filter.mp hw
    exact ((h.1 w.port).waiting w.slot).mp ⟨w.binding, this.1⟩
  · exact h.2.sublist (List.filter_sublist.map _)

theorem Snapshot.afterEnd_waiting (n : Snapshot) :
    n.rebind.startAutosave.afterEnd.waiting =
      (n.waiting.filter fun w => decide (w.binding = .next)).map fun w => ⟨w.port, w.slot, .current⟩ := by
  unfold Snapshot.afterEnd; split <;> rfl

/-- R151: the pending flag leads to the next capture. -/
theorem Snapshot.afterEnd_phase (n : Snapshot) :
    n.rebind.startAutosave.afterEnd.phase = (if n.again then .capturePending else .idle) ∧
      n.rebind.startAutosave.afterEnd.again = false := by
  unfold Snapshot.afterEnd
  cases h : n.again
  · simp [Snapshot.rebind, Snapshot.startAutosave, h]
  · simp [Snapshot.rebind, Snapshot.startAutosave, h]

/-- R143: the autosave timer starts again. -/
theorem Snapshot.afterEnd_autosave (n : Snapshot) :
    n.rebind.startAutosave.afterEnd.autosave = (if n.interval = 0 then none else some (n.interval * 60 * 32768)) ∧
      n.rebind.startAutosave.afterEnd.interval = n.interval := by
  unfold Snapshot.afterEnd; split <;> exact ⟨rfl, rfl⟩

/-- R150: the failure tells the ports of the end of the snapshot, the success does not. -/
def State.tellEnd (ev : Option SystemEvent) (x : State) : State :=
  match ev with
  | none => x
  | some ev => x.systemEvent ev

/-- R149, R150: what the end of a snapshot leaves, whatever has been set of the snapshot unit before it. -/
theorem snapshotEnded_of (s u : State) (res : ResultCode) (body : List Byte) (ev : Option SystemEvent)
    (notices : PortState → NoticeUnit)
    (hp : PortsSound s) (hu : u.ports = s.ports) (hw : u.snap.waiting = s.snap.waiting)
    (ha : u.snap.again = s.snap.again) (hi : u.snap.interval = s.snap.interval)
    (hl : u.link.phase = .idle ∧ u.link.op = none ∧ u.link.timer = none)
    (hrest : u = { s with snap := u.snap, link := u.link })
    (hn : ∀ ps, notices ps = match ev with
      | none => ps.notices
      | some ev => if ps.attached then ps.notices.append (.system ev) else ps.notices) :
    SnapshotEnded s ((State.tellEnd ev (u.answerSaves res body)).endSnapshot) res body notices := by
  have hd : u.snap.due = s.snap.due := by simp [Snapshot.due, hw]
  obtain ⟨h1, h2⟩ := due_waiting hp
  have key := State.foldl_answerSave_get res body u.snap.due u (by rw [hu, hd]; exact h1) (by rw [hd]; exact h2)
  have hfr := State.foldl_answerSave_rest res body u.snap.due u
  generalize ht : List.foldl (State.answerSave res body) u u.snap.due = t at *
  have hports : ∀ p, ((State.tellEnd ev (u.answerSaves res body)).endSnapshot).ports.get p =
      { t.ports.get p with notices := notices (s.ports.get p) } := by
    intro p
    have k1 := (key p).1
    have : (t.ports.get p).notices = (s.ports.get p).notices ∧
        (t.ports.get p).attached = (s.ports.get p).attached := by rw [k1, hu]; exact ⟨rfl, rfl⟩
    cases ev with
    | none =>
      simp only [State.tellEnd, State.endSnapshot, State.answerSaves, ht, hn, ← this.1]
    | some ev =>
      simp only [State.tellEnd, State.endSnapshot, State.systemEvent_get, State.answerSaves, ht, hn, this]
  have hdue : ∀ p, (u.snap.due.filter fun w => decide (w.port = p)) =
      s.snap.waiting.filter fun w => decide (w.binding = .current) && decide (w.port = p) := by
    intro p; rw [hd, Snapshot.due, List.filter_filter]; congr; funext w; exact Bool.and_comm _ _
  have hsnap : ((State.tellEnd ev (u.answerSaves res body)).endSnapshot).snap =
      (u.snap.rebind.startAutosave.afterEnd) := by
    cases ev <;> simp only [State.tellEnd, State.endSnapshot, State.answerSaves, ht, State.systemEvent,
      State.notifyAttached] <;> rw [hfr]
  constructor
  · intro p
    rw [hports]
    obtain ⟨k1, -, -⟩ := key p
    simp only
    conv => lhs; rw [k1]
    rw [hdue, hu]
  · intro p k r hs hm
    rw [hports]
    obtain ⟨-, k2, -⟩ := key p
    exact k2 ⟨p, k, .current⟩ (by rw [hd]; exact List.mem_filter.mpr ⟨hm, by simp⟩) r rfl (by rw [hu]; exact hs)
  · intro p k hm
    rw [hports]
    obtain ⟨-, -, k3⟩ := key p
    rw [k3 k, hu]
    intro w hw' hwp hwk
    rw [hd] at hw'
    have := List.mem_filter.mp hw'
    apply hm
    have hc : w.binding = .current := by simpa using this.2
    rw [← hwp, ← hwk, ← hc]; exact this.1
  · rw [hsnap, Snapshot.afterEnd_waiting, hw]
  · rw [hsnap, (Snapshot.afterEnd_phase _).1, (Snapshot.afterEnd_phase _).2, ha]
    exact ⟨rfl, rfl⟩
  · rw [hsnap, (Snapshot.afterEnd_autosave _).1, (Snapshot.afterEnd_autosave _).2, hi]
    exact ⟨rfl, rfl⟩
  · have : ((State.tellEnd ev (u.answerSaves res body)).endSnapshot).link = u.link := by
      cases ev <;> simp only [State.tellEnd, State.endSnapshot, State.answerSaves, ht, State.systemEvent,
      State.notifyAttached] <;> rw [hfr]
    rw [this]; exact hl
  · cases ev <;> simp only [State.tellEnd, State.endSnapshot, State.answerSaves, ht, State.systemEvent,
      State.notifyAttached] <;> rw [hfr] <;> rw [hrest]

end Sys2Proof.Machine
end

