-- ==== Sys2Proof/Laws/StartUp.lean ====
section
/-!
SUPPORT. What the end of start-up and the next try leave (R173 to R176), what the end of the lease leaves (R113), what a step
on an empty queue does, and where the outputs SDO and those of the memory link rest.
-/
namespace Sys2Proof.Machine

/-- R176: the end of start-up, at a moment when the link has returned to IDLE. -/
theorem startUpEnds_of {s u : State} (hu : u = { s with startup := u.startup, link := u.link })
    (hl : u.link.phase = .idle ∧ u.link.op = none ∧ u.link.timer = none) (table : List Entry) (pool : List EpochRecord)
    (proved : Option Bank) (generation interval : Nat) :
    StartUpEnds s (u.endStartup table pool proved generation interval) table pool proved generation interval
      (startOutcome proved u.startup.failedNewer) where
  table := ⟨rfl, rfl⟩
  lines := ⟨rfl, rfl⟩
  snap := by
    have hs : u.snap = s.snap := by rw [hu]
    show Snapshot.startWith u.snap (startOutcome proved u.startup.failedNewer) proved generation interval = _
    rw [hs]
    cases startOutcome proved u.startup.failedNewer <;> rfl
  phase := by rw [hu]; rfl
  startup := ⟨rfl, rfl, rfl, rfl, rfl⟩
  link := hl
  rest := by rw [hu]; rfl

/-- R173, R175: start-up goes on with the try order that stands. -/
theorem startUpTries_of {s u : State} (hu : u = { s with startup := u.startup, link := u.link })
    (hl : u.link.phase = .idle ∧ u.link.op = none ∧ u.link.timer = none) (hstep : u.startup.step = .body)
    {copy : Bank → Option (List Byte)} (hcopy : u.startup.copyOf = copy) :
    StartUpTries s u.tryNext u.startup.tryOrder u.startup.failedNewer copy := by
  unfold StartUpTries State.tryNext
  cases ho : u.startup.tryOrder with
  | nil => exact startUpEnds_of hu hl [] _ none 0 _
  | cons bank rest =>
    refine ⟨?_, hstep, ho, rfl, rfl, ?_, rfl, rfl, rfl, rfl⟩
    · rw [hu]; rfl
    · rw [← hcopy]; rfl

/-- R113: the end of the lease, as the claims speak of it. -/
theorem leaseEnded_of {s u : State} {h : Port}
    (hu : u = { s with ports := u.ports, snap := u.snap, lastServed := u.lastServed, pins := u.pins })
    (hh : s.lease.holder = some h) (reason : LeaseEndReason) : LeaseEnded s (u.endLease reason) := by
  have hu' : u.lease.holder = some h := by rw [hu]; exact hh
  rw [State.endLease_eq u reason hu']
  refine ⟨⟨rfl, rfl, rfl, rfl⟩, ?_, ⟨rfl, rfl⟩, ?_⟩
  · rw [hu]; rfl
  · rw [hu]; exact ⟨rfl, rfl, rfl, rfl, rfl, rfl, rfl⟩

/-- R113: what the end of the lease does to one port. -/
theorem endLease_notices {s : State} {h : Port} (hh : s.lease.holder = some h) (reason : LeaseEndReason) (q : Port) :
    (s.endLease reason).ports.get q =
      { s.ports.get q with notices := noticesAfterLeaseEnd s.table h reason (s.ports.get q) } :=
  State.endLease_get s reason hh q

/-! ### With an empty queue (log entries 5 and 7) -/

theorem Accrual.due_iff (a : Accrual) : a.due = true ↔ 32768 ≤ a.secondTimer := decide_eq_true_iff

theorem Lease.due_iff (l : Lease) : l.due = true ↔ l.holder ≠ none ∧ ∃ n, l.prescaler = some n ∧ 3277 ≤ n := by
  unfold Lease.due
  cases l.holder with
  | none => simp
  | some p =>
    cases l.prescaler with
    | none => simp
    | some n => exact decide_eq_true_iff.trans ⟨fun h => ⟨by simp, n, rfl, h⟩, fun ⟨_, _, hm, h⟩ => Option.some.inj hm ▸ h⟩

theorem Snapshot.expired_iff (n : Snapshot) : n.expired = true ↔ n.autosave = some 0 := decide_eq_true_iff

theorem Link.timedOut_iff (l : Link) :
    l.timedOut = true ↔ l.op ≠ none ∧ ∃ x, l.timer = some x ∧ x.limit ≤ x.count := by
  unfold Link.timedOut
  cases l.op with
  | none => simp
  | some o => cases l.timer <;> simp

/-- Where no timer stands at its end, no event is due. -/
theorem State.dueEvents_eq_nil {s : State} (ha : s.accrual.due = false) (hl : s.lease.due = false)
    (hn : s.snap.expired = false) (hk : s.link.timedOut = false ∨ s.link.timeoutEvent = []) : s.dueEvents = [] := by
  unfold State.dueEvents
  rw [ha, hl, hn]
  rcases hk with hk | hk <;> simp [hk]

/-- A due event belongs to a timer at its end. -/
theorem State.mem_dueEvents {s : State} {c : Instr} :
    c ∈ s.dueEvents ↔
      (s.accrual.due = true ∧ c = .secondTick (Config.runLevel s.freeIndex)) ∨ (s.lease.due = true ∧ c = s.lease.unitEvent) ∨
        (s.snap.expired = true ∧ c = .autosaveExpiry) ∨ (s.link.timedOut = true ∧ c ∈ s.link.timeoutEvent) := by
  unfold State.dueEvents
  cases s.accrual.due <;> cases s.lease.due <;> cases s.snap.expired <;> cases s.link.timedOut <;> simp

theorem State.refclk_held {s : State} (hr : s.pins.resetN = true) : s.refclk = s := by unfold State.refclk; rw [if_pos hr]

/-- One REFCLK period. -/
theorem State.refclk_period {s : State} (hr : s.pins.resetN = false) (h : s.dueEvents = []) : s.refclk = s.clock := by
  unfold State.refclk
  rw [if_neg (by simp [hr]), h]

/-- While some event is due, one of the due events enters the queue and nothing else happens, whatever the free values are. -/
theorem State.refclk_event {s : State} (hr : s.pins.resetN = false) (h : s.dueEvents ≠ []) :
    ∃ c ∈ s.dueEvents, s.refclk = { s with pending := s.pending ++ [c], freeIndex := s.freeIndex + 1 } := by
  unfold State.refclk
  rw [if_neg (by simp [hr])]
  cases he : s.dueEvents with
  | nil => exact absurd he h
  | cons e es =>
    have hk : Config.raceOrder s.freeIndex % (e :: es).length < (e :: es).length := Nat.mod_lt _ (by simp)
    refine ⟨(e :: es).getD (Config.raceOrder s.freeIndex % (e :: es).length) e, ?_, rfl⟩
    rw [List.getD_eq_getElem?_getD, List.getElem?_eq_getElem hk]
    exact List.getElem_mem hk

/-! ### Signals (R117, R159, R168) -/

/-- R168: without an operation in hand, or while RESET_N is asserted, the link makes no transaction. -/
theorem State.transaction_none {s : State} (h : s.link.op = none ∨ s.pins.resetN = true) : s.transaction = none := by
  unfold State.transaction
  rcases h with h | h
  · rw [h]; split <;> rfl
  · rw [if_pos h]

@[simp] theorem State.flashSignals_none (s : State) : s.flashSignals none = .rest := by
  unfold State.flashSignals; cases s.transaction <;> rfl

/-- R168: without an operation in hand, or while RESET_N is asserted, the link's outputs rest. -/
theorem State.flashSignals_rest {s : State} (h : s.link.op = none ∨ s.pins.resetN = true) (moment : Option Nat) :
    s.flashSignals moment = .rest := by
  unfold State.flashSignals; rw [State.transaction_none h]

@[simp] theorem bitLevels_length (bits : List Bool) : (bits.flatMap bitLevels).length = 2 * bits.length := by
  induction bits with
  | nil => rfl
  | cons b bits ih => rw [List.flatMap_cons, List.length_append, ih, List.length_cons]; simp [bitLevels]; omega

/-- R159: sampled on the rising edges, MDI gives the level it has in the second half of each MCK period. -/
theorem risingSamples_bitLevels (bits : List Bool) (mdi : List (Bool × Bool)) (h : bits.length = mdi.length) (before : Bool) :
    risingSamples before (((bits.flatMap bitLevels).map FlashSignals.mck).zip (mdi.flatMap fun x => [x.1, x.2])) =
      mdi.map Prod.snd := by
  induction bits generalizing mdi before with
  | nil => cases mdi with
    | nil => rfl
    | cons _ _ => cases h
  | cons b bits ih => cases mdi with
    | nil => cases h
    | cons x mdi =>
      have hi := ih mdi (Nat.succ.inj h) true
      simp only [List.flatMap_cons, bitLevels, List.map_append, List.map_cons, List.map_nil, List.cons_append,
        List.nil_append, List.zip_cons_cons, risingSamples, Bool.and_false, Bool.not_false, Bool.and_true, Bool.false_eq_true,
        if_false, if_true] at hi ⊢
      rw [hi]

/-- R159: the levels of a transaction are those of its bits, sent and taken. -/
theorem FlashTransaction.levels_eq (t : FlashTransaction) (free : Nat) :
    t.levels free = (t.sent.flatMap bitsOfByte ++ (List.range (8 * t.taken)).map (Config.mdoWhileTaking free)).flatMap
      bitLevels := by
  rw [FlashTransaction.levels, sentLevels, List.flatMap_append, List.flatMap_map]

/-- R159: a transaction lasts eight MCK periods for each byte, sent or taken; each period has two halves. -/
theorem FlashTransaction.levels_length (t : FlashTransaction) (free : Nat) :
    (t.levels free).length = 16 * (t.sent.length + t.taken) := by
  rw [FlashTransaction.levels_eq, bitLevels_length, List.length_append, flatMap_bitsOfByte_length, List.length_map,
    List.length_range]
  omega

/-- R159: the bits taken are the levels of MDI in the second halves of the MCK periods that follow the bytes sent. -/
theorem FlashTransaction.takenBits_eq (t : FlashTransaction) (free : Nat) (mdi : List (Bool × Bool))
    (h : mdi.length = 8 * (t.sent.length + t.taken)) :
    t.takenBits free (mdi.flatMap fun x => [x.1, x.2]) = (mdi.map Prod.snd).drop (8 * t.sent.length) := by
  rw [FlashTransaction.takenBits, FlashTransaction.levels_eq, risingSamples_bitLevels]
  rw [List.length_append, flatMap_bitsOfByte_length, List.length_map, List.length_range, h]
  omega

/-- R117: the samples of whole SCK periods are the levels of SDI in their high halves. -/
theorem risingSamples_sckLevels (sdi : List (Bool × Bool)) (before : Bool) (rest : List (Bool × Bool)) :
    risingSamples before (sckLevels sdi ++ rest) =
      sdi.map Prod.snd ++ risingSamples (if sdi = [] then before else true) rest := by
  induction sdi generalizing before with
  | nil => rfl
  | cons x sdi ih =>
    have hi := ih true
    simp only [ite_self] at hi
    simp only [sckLevels, List.flatMap_cons, List.cons_append, List.nil_append, risingSamples, Bool.and_false,
      Bool.not_false, Bool.and_true, Bool.false_eq_true, if_false, if_true, List.map_cons] at hi ⊢
    rw [hi]; simp

/-- R117: SCK falls between each two of its periods, and before the first where it was high. -/
theorem fallingEdges_sckLevels (x : Bool × Bool) (sdi : List (Bool × Bool)) (before : Bool) (rest : List Bool) :
    fallingEdges before ((sckLevels (x :: sdi)).map Prod.fst ++ rest) =
      before.toNat + sdi.length + fallingEdges true rest := by
  induction sdi generalizing x before with
  | nil => cases before <;> simp [sckLevels, fallingEdges]
  | cons y sdi ih =>
    have hi := ih y true
    simp only [sckLevels, List.flatMap_cons, List.map_cons, List.cons_append, List.nil_append, fallingEdges,
      List.length_cons] at hi ⊢
    rw [hi]
    cases before <;> simp <;> omega

/-- R117: a port held by a reset releases SDO. -/
theorem State.sdo_held {s : State} {p : Port} (h : s.portHeld p = true) (levels : Option (List (Bool × Bool))) :
    s.sdo p levels = none := by
  unfold State.sdo; rw [if_pos h]

end Sys2Proof.Machine
end

