-- ==== Sys2Proof/WellFormed.lean ====
section
/-!
DEFINITION. Which commands the outside can send. Every operand of the table's rows is free but one:
a page read transaction takes exactly 256 bytes from MDI (R159).
-/
namespace Sys2Proof

/-- R159: a page read takes 256 data bytes; every other command is well formed at every operand. -/
def Instr.wellFormed : Instr → Bool
  | .pageRead data => data.length == 256
  | .attach _ | .detach _ | .define _ | .amend _ | .retire _ | .renew _ | .describe _ | .list _
  | .clear _ | .override _ | .report _ | .watch _ | .unwatch _ | .fetch _ | .ack _ | .claim _
  | .release _ | .save _ | .settings _ | .unknownRequestCode _ | .captureJob | .accrualJob
  | .secondTick _ | .leaseUnitComplete | .leaseExpiry | .autosaveExpiry | .pfwAssert | .pfwDeassert
  | .portReset _ | .prstDeassert _ | .deviceReset | .resetDeassert | .frameArrival _ _
  | .readSelect _ | .readEnd _ _ | .invalidSelectEnd _ | .statusRead _ | .writeEnable
  | .sectorEraseTransaction | .pageProgramTransaction | .readyWaitTimeout | .busyWaitTimeout => true

end Sys2Proof
end

