-- ==== Sys2Proof/Tests/Slice0.lean ====
section
/-!
SUPPORT. The model's own tests: small theorems on one command each, and a witness for the hypotheses of every statement of
Certificates/Slice0/Obligations.lean that has any (and of each of its clauses).
-/
namespace Sys2Proof.Tests
open Sys2Proof Sys2Proof.Machine

-- One declaration at a time: the kernel's evaluations below would else wait for each other on many threads.
set_option Elab.async false

/-! ### Small states -/

/-- What a test reads from the next state of a command. -/
def seen (f : State → α) : Host.Outcome State Fault Refusal → Option α
  | .next t => some (f t)
  | .fault _ | .refused _ => none

/-- TALLY entry 5: budget 100, trip level 20, hysteresis 5, URGENT, all ports may write. -/
def tally5 : Entry :=
  { id := 5, data := .tally 100, cls := .urgent, writers := ⟨true, true, true, true⟩, trip := 20, hyst := 5
    label := [0x41], rawTotal := 0, saturated := false, score := 100, worst := 100, computed := .good, override := .none
    tags := [] }

/-- RUNTIME entry 7: gate RUN, budget 100. -/
def runtime7 : Entry := { tally5 with id := 7, data := .runtime .run 100, cls := .planned }

/-- RATIO entry 9: the entry of the worked example 2.4.1, right after its DEFINE. -/
def ratio9 : Entry :=
  { tally5 with
    id := 9, cls := .planned, trip := 60, computed := .settling
    data := .ratio ⟨500, 2500, 1000, 3⟩ { lifetime := 0, settled := false, closed := [], opened := 0, spares := [1, 2, 3] } }

/-- The part in RUNNING after a blank start, with these entries. -/
def running (table : List Entry) : State :=
  { State.reset with
    phase := .running, table := table, urg := urgCondition table, pln := plnCondition table
    pins := { State.reset.pins with resetN := false }
    startup := { Startup.reset with step := .done, outcome := some .blank }
    snap := { Snapshot.reset with autosave := some 19660800 } }

/-- A port with one QUEUED request in slot A. -/
def queuedPort (attached : Bool) (r : Request) : PortState :=
  { PortState.reset with attached := attached, slots := ⟨.queued r, .free, .free, .free⟩, arrival := [.a] }

/-- The request of P0 that the tests serve. -/
def ask (code : Byte) (body : List Byte) : Request := ⟨7, code, body⟩

/-- P0 is attached, holds the lease and has one request QUEUED; the table holds these entries. -/
def asking (code : Byte) (body : List Byte) (table : List Entry) : State :=
  { running table with
    ports := ⟨queuedPort true (ask code body), .reset, .reset, .reset⟩
    lease := ⟨some .p0, 9, 4, some 0⟩ }

/-- The answer in slot A of P0. -/
def answerOf (s : State) : Option (ResultCode × List Byte) :=
  match s.ports.p0.slots.a with
  | .answered a => some (a.result, a.body)
  | .free | .queued _ | .inService _ | .waiting _ => none

/-- The link in a phase, with an operation and a timer. -/
def linked (phase : LinkPhase) (op : FlashOp) (bank : Bank) (client : Client) (timer : Option LinkTimer) : Link :=
  { phase := phase, op := some ⟨op, bank, client⟩, writeEnabled := false, timer := timer, mdo := [] }

/-- A buffer whose pages are all zero, with a header that marks generation 1. -/
def zeroImage : Image := ⟨imageHeader 1 0 10 0, zeros 8192⟩

/-- A snapshot in flight to bank A. -/
def writing (table : List Entry) (phase : SnapPhase) (attempt : Attempt) (link : Link) : State :=
  { running table with
    snap := { (running table).snap with
      phase := phase, captured := 3, attempt := attempt, buffer := some zeroImage, target := .a }
    link := link }

/-- The part while it starts up, with an operation in hand. -/
def starting (step : StartStep) (phase : LinkPhase) (op : FlashOp) (bank : Bank) : State :=
  { State.reset with
    pins := { State.reset.pins with resetN := false }
    startup := { Startup.reset with step := step }
    link := linked phase op bank .startup (if phase = .command then none else some ⟨0, 13108⟩) }

/-! ### Which commands are well formed, and which words spell one -/

theorem test_pageRead_of_255_bytes_is_ill_formed : (Instr.pageRead (List.replicate 255 0)).wellFormed = false := by decide +kernel
theorem test_pageRead_of_256_bytes_is_well_formed : (Instr.pageRead (List.replicate 256 0)).wellFormed = true := by decide +kernel
theorem test_no_word_spells_a_command : decodeTableWord 32 0 = none ∧ decodeTableWord 8 255 = none := by decide +kernel

/-! ### Formats -/

theorem test_crc_of_one : crc8 [0x01] = 0x07 := by decide +kernel
theorem test_crc_of_zero : crc8 [0x00] = 0x00 := by decide +kernel
theorem test_frame_of_list : (Request.frame (ask 0x15 [0])).take 4 = [5, 7, 0x15, 0] := by decide +kernel
theorem test_frame_reads_back : frameOk (ask 0x15 [0]).frame = true ∧ frameRequest (ask 0x15 [0]).frame = ask 0x15 [0] := by
  decide +kernel
theorem test_define_body :
    bodyFields [5, 0x13, 0x02, 1, 1, 0x64, 0, 0, 0, 20] =
      some (5, ⟨some 1, some 1, none, none, some 100, none, none, none, none, some 20, none, none⟩) := by decide +kernel
theorem test_mask_bit_12_is_malformed : bodyFields [5, 0x00, 0x10] = none := by decide +kernel
theorem test_report_body :
    bodyItems [2, 5, 1, 0xA1, 0x0F, 0, 0, 1, 0, 9, 2, 1, 0, 0x58, 0x02, 0] =
      some [⟨5, some 4001, .tally 1⟩, ⟨9, none, .ratio 1 600⟩] := by decide +kernel
theorem test_label_shorter_than_announced : bodyFields [5, 0x00, 0x08, 2, 0x41] = none := by decide +kernel
theorem test_levels_of_a_write :
    transactionOfLevels .p0 (sckLevels ((bitsOfByte 0xA5 ++ bitsOfByte 0x2C).map fun b => (!b, b)) ++ [(false, true)]) =
      [.frameArrival .p0 [0x2C]] := by decide +kernel
theorem test_bits_of_a_write : transactionOfBits .p0 (bitsOfByte 0xA5 ++ bitsOfByte 0x2C ++ [true]) = [.frameArrival .p0 [0x2C]] := by
  decide +kernel

/-! ### One step of each command -/

theorem test_attach :
    seen (fun t => (t.ports.p0.attached, answerOf t))
      (exec (.attach .p0) { running [] with ports := ⟨queuedPort false (ask 0x01 []), .reset, .reset, .reset⟩ }) =
      some (true, some (.ok, [0x64, 0x04, 1, 0, 3, 0, 0, 0, 0, 1, 0])) := by decide +kernel
theorem test_detach :
    seen (fun t => ((t.ports.p0.attached, t.ports.p0.answers), t.lease.holder, answerOf t))
      (exec (.detach .p0) (asking 0x02 [] [])) = some ((false, [.a]), none, some (.ok, [])) := by decide +kernel
theorem test_define :
    seen (fun t => ((t.table.map Entry.id, t.snap.changeCount), t.urg, answerOf t))
      (exec (.define .p0) (asking 0x10 [3, 0x13, 0x02, 1, 1, 0x64, 0, 0, 0, 100] [tally5])) =
      some (([3, 5], 1), true, some (.ok, [3, 100, 3])) := by decide +kernel
theorem test_define_exists :
    seen answerOf (exec (.define .p0) (asking 0x10 [5, 0x13, 0x02, 1, 1, 0x64, 0, 0, 0, 100] [tally5])) =
      some (some (.exists_, [])) := by decide +kernel
theorem test_amend :
    seen (fun t => (t.table.map Entry.score, t.table.map Entry.computed, answerOf t))
      (exec (.amend .p0) (asking 0x11 [5, 0x10, 0x02, 50, 0, 0, 0, 30] [{ tally5 with rawTotal := 40 }])) =
      some ([20], [.tripped], some (.ok, [5, 20, 3])) := by decide +kernel
theorem test_retire :
    seen (fun t => (t.table.map Entry.id, t.snap.changeCount, answerOf t))
      (exec (.retire .p0) (asking 0x12 [9] [tally5, ratio9])) = some ([5], 1, some (.ok, [9])) := by decide +kernel
theorem test_renew :
    seen (fun t => (t.table.map Entry.rawTotal, t.table.map Entry.computed, answerOf t))
      (exec (.renew .p0) (asking 0x13 [5] [{ tally5 with rawTotal := 90, score := 10, worst := 10, computed := .held }])) =
      some ([0], [.good], some (.ok, [5])) := by decide +kernel
theorem test_describe :
    seen (fun t => (answerOf t).map fun x => (x.1, x.2.length, x.2.take 9))
      (exec (.describe .p0) (asking 0x14 [5] [tally5])) =
      some (some (.ok, 108, [5, 1, 1, 0, 15, 0x1B, 0x0E, 100, 0])) := by decide +kernel
theorem test_list :
    seen answerOf (exec (.list .p0) (asking 0x15 [6] [tally5, runtime7, ratio9])) =
      some (some (.ok, [2, 0, 7, 2, 2, 2, 100, 9, 3, 2, 1, 100])) := by decide +kernel
theorem test_clear :
    seen (fun t => (t.table.map Entry.computed, t.urg, answerOf t))
      (exec (.clear .p0) (asking 0x16 [5] [{ tally5 with score := 65, computed := .held }])) =
      some ([.good], false, some (.ok, [5, 2, 2])) := by decide +kernel
theorem test_clear_tripped :
    seen answerOf (exec (.clear .p0) (asking 0x16 [5] [{ tally5 with score := 10, computed := .tripped }])) =
      some (some (.conditionPresent, [10, 25])) := by decide +kernel
theorem test_override :
    seen (fun t => (t.urg, t.snap.changeCount, answerOf t)) (exec (.override .p0) (asking 0x17 [5, 2] [tally5])) =
      some (true, 0, some (.ok, [5, 2, 2, 3])) := by decide +kernel
theorem test_report_duplicate :
    seen (fun t => ((t.table.map Entry.rawTotal, t.table.map Entry.tags), t.snap.changeCount, answerOf t))
      (exec (.report .p0) (asking 0x20 [2, 5, 1, 9, 0, 0, 0, 7, 0, 5, 1, 9, 0, 0, 0, 7, 0] [tally5])) =
      some (([7], [[9]]), 1, some (.ok, [1, 1])) := by decide +kernel
theorem test_report_refused_at_item_2 :
    seen (fun t => (t.table.map Entry.rawTotal, answerOf t))
      (exec (.report .p0) (asking 0x20 [2, 5, 0, 7, 0, 7, 0, 7, 0] [tally5, runtime7])) =
      some ([0, 0], some (.notReportable, [2])) := by decide +kernel
theorem test_watch :
    seen (fun t => (t.ports.p0.notices.watch, answerOf t)) (exec (.watch .p0) (asking 0x30 [5] [tally5])) =
      some ([5], some (.ok, [5, 2, 100, 1])) := by decide +kernel
theorem test_unwatch :
    seen (fun t => answerOf t) (exec (.unwatch .p0) (asking 0x31 [0] [tally5])) = some (some (.ok, [0, 0])) := by decide +kernel
theorem test_fetch_empty :
    seen answerOf (exec (.fetch .p0) (asking 0x32 [] [])) = some (some (.ok, [0, 0, 0])) := by decide +kernel
theorem test_ack_refused :
    seen answerOf (exec (.ack .p0) (asking 0x33 [1, 0] [])) = some (some (.badSequence, [])) := by decide +kernel
theorem test_claim :
    seen (fun t => (t.lease, answerOf t)) (exec (.claim .p0) (asking 0x40 [3] [])) =
      some (⟨some .p0, 3, 3, some 0⟩, some (.ok, [0, 3, 3])) := by decide +kernel
theorem test_release :
    seen (fun t => (t.lease.holder, t.ports.p0.notices.queue, answerOf t)) (exec (.release .p0) (asking 0x41 [] [])) =
      some (none, [⟨1, .system (.leaseEnded .p0 .released), false⟩], some (.ok, [])) := by decide +kernel
theorem test_save_with_nothing_to_write :
    seen answerOf (exec (.save .p0) (asking 0x50 [] [])) = some (some (.ok, [0, 0, 0, 0, 0, 0, 0, 0])) := by decide +kernel
theorem test_settings :
    seen (fun t => ((t.snap.interval, t.snap.autosave), t.snap.changeCount, answerOf t))
      (exec (.settings .p0) (asking 0x51 [0, 0] [])) = some ((0, none), 1, some (.ok, [0, 0])) := by decide +kernel
theorem test_unknown_code :
    seen answerOf (exec (.unknownRequestCode .p0) (asking 0x99 [] [])) = some (some (.badRequest, [])) := by decide +kernel
theorem test_captureJob :
    seen (fun t => (t.snap.phase, t.snap.captured, t.snap.changeCount, t.snap.target, t.link.op))
      (exec .captureJob { running [] with snap := { Snapshot.reset with phase := .capturePending, changeCount := 2 } }) =
      some (.writing, 2, 0, .a, some ⟨.erase 0, .a, .snapshot⟩) := by decide +kernel
theorem test_accrualJob :
    seen (fun t => (t.table.map Entry.rawTotal, t.accrual.owedRun, t.snap.changeCount))
      (exec .accrualJob { running [tally5, runtime7] with accrual := ⟨true, 0, 2, 3, 1, 0⟩ }) = some ([0, 3], 0, 1) := by
  decide +kernel
theorem test_secondTick :
    seen (fun t => t.accrual) (exec (.secondTick true) (running [])) = some ⟨true, 0, 1, 1, 0, 0⟩ := by decide +kernel
theorem test_leaseUnitComplete :
    seen (fun t => t.lease) (exec .leaseUnitComplete (asking 0x32 [] [])) = some ⟨some .p0, 9, 3, some 0⟩ := by decide +kernel
theorem test_leaseExpiry :
    seen (fun t => t.lease) (exec .leaseExpiry { asking 0x32 [] [] with lease := ⟨some .p0, 9, 1, some 5⟩ }) =
      some ⟨none, 0, 0, none⟩ := by decide +kernel
theorem test_autosaveExpiry :
    seen (fun t => (t.snap.phase, t.snap.autosave))
      (exec .autosaveExpiry { running [] with snap := { (running []).snap with changeCount := 1 } }) =
      some (.capturePending, some 19660800) := by decide +kernel
theorem test_pfwAssert :
    seen (fun t => (t.phase, t.ports.p0.notices.queue)) (exec .pfwAssert (asking 0x32 [] [])) =
      some (.frozen, [⟨1, .system .frozenEntered, false⟩]) := by decide +kernel
theorem test_pfwDeassert :
    seen (fun t => (t.phase, t.accrual.candidate))
      (exec .pfwDeassert { running [] with phase := .frozen, accrual := ⟨false, 0, 0, 0, 0, 1⟩ }) =
      some (.running, true) := by decide +kernel
theorem test_portReset :
    seen (fun t => (t.ports.p0, t.pins.prstN.p0, t.lease.holder)) (exec (.portReset .p0) (asking 0x32 [] [])) =
      some (PortState.reset, true, none) := by decide +kernel
theorem test_prstDeassert :
    seen (fun t => t.pins.prstN)
      (exec (.prstDeassert .p1) { running [] with pins := ⟨false, false, ⟨true, true, false, false⟩⟩ }) =
      some ⟨true, false, false, false⟩ := by decide +kernel
theorem test_deviceReset :
    seen (fun t => t) (exec .deviceReset (asking 0x32 [] [tally5])) = some State.reset := by decide +kernel
theorem test_resetDeassert :
    seen (fun t => t.link.op) (exec .resetDeassert State.reset) = some (some ⟨.read 0, .a, .startup⟩) := by decide +kernel
theorem test_frameArrival :
    seen (fun t => (t.ports.p1.slots.a, t.ports.p1.arrival))
      (exec (.frameArrival .p1 (ask 0x32 []).frame) (running [])) = some (.queued (ask 0x32 []), [.a]) := by decide +kernel
theorem test_frame_with_bad_crc :
    seen (fun t => t.ports.p1.badFrame) (exec (.frameArrival .p1 [4, 7, 0x32, 0]) (running [])) = some 1 := by decide +kernel
theorem test_read_in_full :
    seen (fun t => (t.ports.p0.slots.a, t.ports.p0.answers))
      (exec (.readEnd .p0 17) { running [] with ports :=
        { State.reset.ports with p0 := { PortState.reset with
          slots := ⟨.answered ⟨7, 1, .notReady, []⟩, .free, .free, .free⟩, answers := [.a]
          reading := some ⟨List.replicate 12 0, some (.a, ⟨7, 1, .notReady, []⟩)⟩ } } }) = some (.free, []) := by decide +kernel
theorem test_readSelect :
    seen (fun t => t.ports.p0.reading.map fun x => x.header.take 11) (exec (.readSelect .p0) (asking 0x32 [] [])) =
      some (some [1, 1, 1, 0, 0, 0, 0, 0, 0, 0, 4]) := by decide +kernel
theorem test_invalidSelectEnd :
    seen (fun t => t.ports.p2.badFrame) (exec (.invalidSelectEnd .p2) (running [])) = some 1 := by decide +kernel
theorem test_statusRead_ready :
    seen (fun t => (t.link.phase, t.link.timer))
      (exec (.statusRead 0xFE) (starting .headerA .readyWait (.read 0) .a)) = some (.command, none) := by decide +kernel
theorem test_statusRead_busy :
    seen (fun t => t.link.phase) (exec (.statusRead 0x01) (starting .headerA .readyWait (.read 0) .a)) =
      some .readyWait := by decide +kernel
theorem test_writeEnable :
    seen (fun t => (t.link.writeEnabled, t.link.mdo))
      (exec .writeEnable (writing [] .writing .first (linked .command (.erase 3) .b .snapshot none))) =
      some (true, [0x06]) := by decide +kernel
theorem test_sectorErase :
    seen (fun t => (t.link.phase, t.link.timer, t.link.mdo))
      (exec .sectorEraseTransaction (writing [] .writing .first
        { linked .command (.erase 3) .b .snapshot none with writeEnabled := true })) =
      some (.busyWait, some ⟨0, 13108⟩, [0x20, 0x00, 0x70, 0x00]) := by decide +kernel
theorem test_pageProgram :
    seen (fun t => (t.link.timer, t.link.mdo.take 8))
      (exec .pageProgramTransaction (writing [] .writing .first
        { linked .command (.program 0) .b .snapshot none with writeEnabled := true })) =
      some (some ⟨0, 99⟩, [0x02, 0x00, 0x40, 0x00, 0x56, 0x5A, 0x55, 0x43]) := by decide +kernel
theorem test_blank_flash_is_implausible :
    seen (fun t => (t.startup.verdictA, t.startup.step, t.link.op))
      (exec (.pageRead (List.replicate 256 0xFF)) (starting .headerA .command (.read 0) .a)) =
      some (some .implausible, .headerB, some ⟨.read 0, .b, .startup⟩) := by decide +kernel
theorem test_readyWaitTimeout_blank_start :
    seen (fun t => (t.phase, t.startup.outcome))
      (exec .readyWaitTimeout { starting .headerB .readyWait (.read 0) .b with startup :=
        { Startup.reset with step := .headerB, verdictA := some .implausible } }) =
      some (.running, some .blank) := by decide +kernel
theorem test_busyWaitTimeout_second_attempt :
    seen (fun t => (t.snap.phase, t.snap.changeCount, t.link.phase))
      (exec .busyWaitTimeout (writing [] .writing .second (linked .busyWait (.program 17) .a .snapshot (some ⟨0, 99⟩)))) =
      some (.idle, 3, .idle) := by decide +kernel
/-- R152, row on the autosave expiry: the end of the snapshot taken first restarts the timer, and the expiry is not due. -/
theorem test_end_of_snapshot_takes_the_expiry :
    seen (fun t => (t.snap.phase, t.snap.autosave, t.dueEvents))
      (exec .busyWaitTimeout
        (let s := writing [] .writing .second (linked .busyWait (.program 17) .a .snapshot (some ⟨99, 99⟩))
         { s with snap := { s.snap with autosave := some 0 } })) = some (.idle, some 19660800, []) := by decide +kernel
theorem test_autosave_expiry_before_the_end_of_snapshot :
    seen (fun t => (t.snap.phase, t.snap.again, t.snap.autosave, t.dueEvents))
      (exec .autosaveExpiry
        (let s := writing [] .writing .second (linked .busyWait (.program 17) .a .snapshot (some ⟨99, 99⟩))
         { s with snap := { s.snap with autosave := some 0, changeCount := 1 } })) =
      some (.writing, true, some 19660800, [.busyWaitTimeout]) := by decide +kernel
theorem test_fill_bytes_on_sdo :
    ((running []).sdoBits .p0 (bitsOfByte 0xA5 ++ bitsOfByte 0x2C ++ [true])).drop 8 = List.replicate 9 false ∧
    ((running []).sdoBits .p0 (bitsOfByte 0x00 ++ [true])).drop 8 = [false] := by
  simp only [State.sdoBits]
  exact ⟨rfl, rfl⟩
theorem test_sdo_is_released :
    (running []).sdo .p0 none = none ∧ State.reset.sdo .p0 (some [(true, true)]) = none ∧
      { running [] with pins := ⟨false, false, ⟨true, false, false, false⟩⟩ }.sdo .p0 (some [(true, true)]) = none := by
  decide +kernel
/-- SDI changes while SCK is low and while it is high; the level at the rising edge counts. -/
theorem test_sdi_is_sampled_as_sck_rises :
    risingSamples false [(false, true), (false, false), (true, true), (true, false), (false, false), (true, false),
      (true, true)] = [true, false] := by decide
/-- A READ on which SCK has fallen 7 + 8 times and risen 15 or 16 times: bit 15 of SDO is bit 0 of the header's first byte, the
phase RUNNING (1). One bit earlier it is 0. -/
theorem test_sdo_changes_as_sck_falls :
    (running []).sdo .p0
        (some (sckLevels ((bitsOfByte 0x5A ++ List.replicate 7 false).map fun b => (b, b)) ++ [(false, false)])) =
      some true ∧
    (running []).sdo .p0
        (some (sckLevels ((bitsOfByte 0x5A ++ List.replicate 7 false).map fun b => (b, b)))) = some false := by
  exact ⟨rfl, rfl⟩
theorem test_read_status_command_on_mdo :
    (sentLevels [cmdStatus]).map FlashSignals.mdo =
      [false, false, false, false, false, false, false, false, false, false, true, true, false, false, true, true] := by
  decide +kernel
theorem test_queue_order :
    seen (fun t => (t.phase, t.pending)) (step { running [] with pending := [.pfwAssert, .pfwDeassert] }) =
      some (.frozen, [.pfwDeassert]) := by decide +kernel

/-! ### Witnesses: concrete states and operands that meet the hypotheses of the statements, clause by clause -/

/-- A port whose only slot in use is QUEUED with this request, in the state `asking`, is admitted whatever it asks. -/
theorem admitted_asking {code : Byte} {c : RequestCode} (body : List Byte) (table : List Entry)
    (h : requestOf code = some c) : Admitted (asking code body table) .p0 c .a (ask code body) :=
  ⟨⟨rfl, h⟩, fun _ => rfl, fun _ => rfl, fun _ hf => by cases hf⟩

/-- A RATIO entry that holds the first n records of the pool. -/
def holding (n : Nat) : Entry :=
  { ratio9 with
    data := .ratio ⟨500, 2500, 1000, 3⟩ { lifetime := 0, settled := false, closed := [], opened := 0, spares := List.range n } }

/-- n TALLY entries with the ids from 1 on. -/
def tallies (n : Nat) : List Entry := (List.range n).map fun i => { tally5 with id := i + 1 }

/-- RATIO entry 9 settled, with a full window of three closed epochs and its open epoch at exposure 999. -/
def ratioFull : Entry :=
  { ratio9 with
    computed := .good, score := 200
    data := .ratio ⟨500, 2500, 1000, 3⟩ { lifetime := 3999, settled := true, closed := [0, 1, 2], opened := 3, spares := [] } }

/-- The pool that belongs to `ratioFull`. -/
def poolFull : List EpochRecord := [⟨0, 1000⟩, ⟨0, 1000⟩, ⟨0, 1000⟩, ⟨0, 999⟩] ++ List.replicate 252 ⟨0, 0⟩

theorem witness_StepRunsTheFrontCommand :
    { running [] with pending := [.pfwAssert, .pfwDeassert] }.pending = .pfwAssert :: [.pfwDeassert] := rfl

/-- Every timer of the part is one period before its end (`left` is 1) or at its end (`left` is 0). -/
def onEdge (left : Nat) : State :=
  { running [] with
    accrual := { Accrual.reset with secondTimer := 32768 - left }
    lease := ⟨some .p0, 9, 2, some (3277 - left)⟩
    snap := { (running []).snap with autosave := some left }
    link := linked .readyWait (.erase 0) .a .snapshot (some ⟨13108 - left, 13108⟩) }

theorem witness_EmptyQueueIsOneRefclkPeriod :
    (State.reset.pending = [] ∧ State.reset.pins.resetN = true) ∧
    ((onEdge 1).pending = [] ∧ (onEdge 1).pins.resetN = false ∧ (onEdge 1).accrual.secondTimer = 32767 ∧
      (onEdge 1).lease.holder ≠ none ∧ (onEdge 1).lease.prescaler = some 3276 ∧ (onEdge 1).snap.autosave = some 1 ∧
      (onEdge 1).link.op ≠ none ∧ (onEdge 1).link.phase = .readyWait ∧ (onEdge 1).link.timer = some ⟨13107, 13108⟩) ∧
    ((onEdge 0).pending = [] ∧ (onEdge 0).pins.resetN = false ∧ (onEdge 0).accrual.secondTimer = 32768 ∧
      (onEdge 0).lease.holder ≠ none ∧ (onEdge 0).lease.prescaler = some 3277 ∧ (onEdge 0).snap.autosave = some 0 ∧
      (onEdge 0).link.op ≠ none ∧ (onEdge 0).link.phase = .readyWait ∧ (onEdge 0).link.timer = some ⟨13108, 13108⟩) := by
  decide +kernel

theorem witness_DeviceResetThenFirstHeaderRead : State.reset.pins.resetN = true := rfl

/-- P2 alone asks; the port `last` was served last. -/
def lastServing (last : Port) : State :=
  { running [] with lastServed := last, ports := ⟨.reset, .reset, queuedPort true (ask 0x32 []), .reset⟩ }

theorem witness_ArbiterChoosesInOrder :
    State.reset.phase = .starting ∧
    ({ running [] with snap := { Snapshot.reset with phase := .capturePending } }.phase ≠ .starting ∧
      { running [] with snap := { Snapshot.reset with phase := .capturePending } }.snap.phase = .capturePending) ∧
    ({ running [] with accrual := { Accrual.reset with candidate := true } }.snap.phase ≠ .capturePending ∧
      { running [] with accrual := { Accrual.reset with candidate := true } }.accrual.candidate = true) ∧
    ((lastServing .p3).accrual.candidate = false ∧ (lastServing .p3).snap.phase ≠ .capturePending ∧
      (lastServing .p3).phase ≠ .starting ∧
      ([Port.p0, .p1, .p2, .p3, .p0, .p1, .p2, .p3].drop (portCode (lastServing .p3).lastServed + 1)).take 4 =
        [.p0, .p1] ++ .p2 :: [.p3] ∧
      (∀ q ∈ [Port.p0, .p1], ((lastServing .p3).ports.get q).oldestQueued = none) ∧
      ((lastServing .p3).ports.get .p2).oldestQueued = some (.a, ask 0x32 [])) ∧
    (([Port.p0, .p1, .p2, .p3, .p0, .p1, .p2, .p3].drop (portCode (lastServing .p2).lastServed + 1)).take 4 =
        [.p3, .p0, .p1] ++ .p2 :: [] ∧
      (∀ q ∈ [Port.p3, .p0, .p1], ((lastServing .p2).ports.get q).oldestQueued = none) ∧
      ((lastServing .p2).ports.get .p2).oldestQueued = some (.a, ask 0x32 [])) ∧
    (∀ q ∈ [Port.p0, .p1, .p2, .p3], ((running []).ports.get q).oldestQueued = none) ∧
    (running []).arbiterChoice = none := by decide +kernel
theorem witness_ArbiterChoosesInOrder_granted : Granted (lastServing .p2) .p2 .fetch .a (ask 0x32 []) := ⟨rfl, rfl⟩

/-- P0 asks without being attached. -/
def stranger (code : Byte) (body : List Byte) : State :=
  { running [] with ports := ⟨queuedPort false (ask code body), .reset, .reset, .reset⟩ }

theorem witness_ChecksAtGrantDecideInOrder :
    (Granted (stranger 0x32 []) .p0 .fetch .a (ask 0x32 []) ∧ ((stranger 0x32 []).ports.get .p0).attached = false) ∧
    (Granted (stranger 0x01 [0]) .p0 .attach .a (ask 0x01 [0]) ∧ bodyDecodes (ask 0x01 [0]).body .attach = false) ∧
    (Granted (asking 0x32 [0] []) .p0 .fetch .a (ask 0x32 [0]) ∧
      ((asking 0x32 [0] []).ports.get .p0).attached = true ∧ bodyDecodes (ask 0x32 [0]).body .fetch = false) ∧
    (Granted { asking 0x12 [5] [] with lease := .unheld } .p0 .retire .a (ask 0x12 [5]) ∧
      bodyDecodes (ask 0x12 [5]).body .retire = true ∧ Lease.unheld.holder ≠ some .p0) ∧
    (Granted { asking 0x17 [5, 1] [] with lease := ⟨some .p3, 1, 1, some 0⟩ } .p0 .override .a (ask 0x17 [5, 1]) ∧
      bodyDecodes (ask 0x17 [5, 1]).body .override = true) ∧
    (Granted { asking 0x12 [5] [] with phase := .frozen } .p0 .retire .a (ask 0x12 [5]) ∧
      { asking 0x12 [5] [] with phase := .frozen }.lease.holder = some .p0) ∧
    (Granted { asking 0x20 [1, 5, 0, 1, 0] [] with phase := .frozen } .p0 .report .a (ask 0x20 [1, 5, 0, 1, 0]) ∧
      bodyDecodes (ask 0x20 [1, 5, 0, 1, 0]).body .report = true) ∧
    ((asking 0x99 [] []).arbiterChoice = some (.request .p0 .a (ask 0x99 [])) ∧ requestOf (ask 0x99 []).code = none) ∧
    ((stranger 0x99 []).arbiterChoice = some (.request .p0 .a (ask 0x99 [])) ∧
      ((stranger 0x99 []).ports.get .p0).attached = false) := by
  unfold Granted; decide +kernel

theorem witness_UnchosenGrantChangesNothing :
    (∀ k r, ¬ Granted (running []) .p0 .fetch k r) ∧
      (∀ k r, (asking 0x32 [] []).arbiterChoice = some (.request .p0 k r) → requestOf r.code ≠ none) ∧ (running []).arbiterChoice ≠ some .capture ∧
      (running []).arbiterChoice ≠ some .accrual :=
  ⟨fun k r h => (by have h1 := h.1; cases h1), fun k r h => (by cases h; decide), by decide, by decide⟩

/-- P0 asks to be attached; the start-up ended with this outcome. -/
def attaching (already : Bool) (outcome : StartOutcome) : State :=
  { running [] with
    ports := ⟨queuedPort already (ask 0x01 []), .reset, .reset, .reset⟩
    startup := { Startup.reset with step := .done, outcome := some outcome } }

theorem witness_AttachAnswersThePartIdentity :
    ∀ already ∈ [false, true], ∀ outcome ∈ [StartOutcome.loadedNewer, .loadedOlder, .blank],
      Granted (attaching already outcome) .p0 .attach .a (ask 0x01 []) ∧ (ask 0x01 []).body = [] ∧
        (attaching already outcome).startup.outcome = some outcome := by unfold Granted; decide +kernel

theorem witness_DetachResetsItsPort :
    Admitted (asking 0x02 [] [tally5]) .p0 .detach .a (ask 0x02 []) ∧ (ask 0x02 []).body = [] ∧
      (asking 0x02 [] [tally5]).lease.holder = some .p0 := ⟨admitted_asking _ _ rfl, rfl, rfl⟩

/-- What DEFINE asks of a request, its fields, the table and the pool. -/
def DefineFits (id : Nat) (f : Fields) (d : Definition) (body : List Byte) (table : List Entry) : Prop :=
  bodyFields body = some (id, f) ∧ 1 ≤ id ∧ id ≤ 254 ∧ definitionOf f = some d ∧ findEntry table id = none ∧
    table.length < 64 ∧ d.kind.recordsNeeded ≤ (freeRecords table).length

/-- The fields of a TALLY, RUNTIME or RATIO definition in bodies of DEFINE at the ends of their ranges. -/
def fieldsTally (id : Nat) : Nat × Fields := (id, ⟨some 1, some 1, none, none, some 1, none, none, none, none, some 199, none, none⟩)
def fieldsRuntime (id : Nat) : Nat × Fields :=
  (id, ⟨some 2, some 2, some 2, some 15, some 4294967295, none, none, none, none, some 0, some 50, some []⟩)
def fieldsRatio (id : Nat) : Nat × Fields :=
  (id, ⟨some 3, some 2, none, some 0, none, some 1000000, some 4294967295, some 2147483648, some 8, some 60, some 1,
    some (List.replicate 16 0x7E)⟩)

theorem witness_DefineCreatesTheEntry :
    (Admitted (asking 0x10 (encodeFieldsBody 254 (fieldsTally 254).2) (tallies 63)) .p0 .define .a
        (ask 0x10 (encodeFieldsBody 254 (fieldsTally 254).2)) ∧
      DefineFits 254 (fieldsTally 254).2 ⟨.tally 1, .urgent, ⟨true, true, true, true⟩, 199, 5, []⟩
        (encodeFieldsBody 254 (fieldsTally 254).2) (tallies 63)) ∧
    (Admitted (asking 0x10 (encodeFieldsBody 1 (fieldsRuntime 1).2) [tally5]) .p0 .define .a
        (ask 0x10 (encodeFieldsBody 1 (fieldsRuntime 1).2)) ∧
      DefineFits 1 (fieldsRuntime 1).2 ⟨.runtime .powered 4294967295, .planned, ⟨true, true, true, true⟩, 0, 50, []⟩
        (encodeFieldsBody 1 (fieldsRuntime 1).2) [tally5]) ∧
    (Admitted (asking 0x10 (encodeFieldsBody 1 (fieldsRatio 1).2) [holding 247]) .p0 .define .a
        (ask 0x10 (encodeFieldsBody 1 (fieldsRatio 1).2)) ∧
      DefineFits 1 (fieldsRatio 1).2
        ⟨.ratio ⟨1000000, 4294967295, 2147483648, 8⟩, .planned, ⟨false, false, false, false⟩, 60, 1,
          List.replicate 16 0x7E⟩
        (encodeFieldsBody 1 (fieldsRatio 1).2) [holding 247]) := by
  refine ⟨⟨admitted_asking _ _ rfl, ?_⟩, ⟨admitted_asking _ _ rfl, ?_⟩, ⟨admitted_asking _ _ rfl, ?_⟩⟩ <;>
    (unfold DefineFits; decide +kernel)

theorem witness_DefineIsRefusedInOrder :
    (Admitted (asking 0x10 (encodeFieldsBody 0 (fieldsTally 0).2) []) .p0 .define .a
        (ask 0x10 (encodeFieldsBody 0 (fieldsTally 0).2)) ∧
      bodyFields (encodeFieldsBody 0 (fieldsTally 0).2) = some (0, (fieldsTally 0).2) ∧
      bodyFields (encodeFieldsBody 255 (fieldsTally 255).2) = some (255, (fieldsTally 255).2) ∧
      bodyFields [7, 0x00, 0x00] =
        some (7, ⟨none, none, none, none, none, none, none, none, none, none, none, none⟩) ∧
      definitionOf ⟨none, none, none, none, none, none, none, none, none, none, none, none⟩ = none) ∧
    ((definitionOf (fieldsTally 5).2).isSome = true ∧ (findEntry [tally5] 5).isSome = true) ∧
    (findEntry (tallies 64) 254 = none ∧ 64 ≤ (tallies 64).length) ∧
    (findEntry [holding 248] 1 = none ∧ [holding 248].length < 64 ∧
      (definitionOf (fieldsRatio 1).2).map Definition.kind = some (.ratio ⟨1000000, 4294967295, 2147483648, 8⟩) ∧
      (freeRecords [holding 248]).length + 1 = 8 + 1) :=
  ⟨⟨admitted_asking _ _ rfl, by decide +kernel⟩, by decide +kernel⟩

theorem witness_DefinitionsTakeFieldsInRange :
    definitionOf (fieldsTally 1).2 = some ⟨.tally 1, .urgent, ⟨true, true, true, true⟩, 199, 5, []⟩ ∧
    definitionOf (fieldsRuntime 1).2 =
      some ⟨.runtime .powered 4294967295, .planned, ⟨true, true, true, true⟩, 0, 50, []⟩ ∧
    definitionOf (fieldsRatio 1).2 =
      some ⟨.ratio ⟨1000000, 4294967295, 2147483648, 8⟩, .planned, ⟨false, false, false, false⟩, 60, 1,
        List.replicate 16 0x7E⟩ := by decide +kernel

/-- The fields of an AMEND. -/
def amending (writers budget trip hyst : Option Nat) (label : Option (List Byte)) : Fields :=
  ⟨none, none, none, writers, budget, none, none, none, none, trip, hyst, label⟩

theorem witness_AmendAppliesItsFields :
    (∀ f ∈ [amending none (some 1) none none none, amending (some 15) (some 4294967295) (some 199) (some 50) (some [])],
      bodyFields (encodeFieldsBody 5 f) = some (5, f) ∧ f.namesFixed = false ∧ f.amendOk .tally = true ∧
        f.amendOk .runtime = true ∧ f.carriesAny = true) ∧
    (∀ f ∈ [amending (some 0) none (some 0) (some 1) (some [0x20])],
      bodyFields (encodeFieldsBody 9 f) = some (9, f) ∧ f.namesFixed = false ∧ f.amendOk .ratio = true ∧
        f.carriesAny = true) ∧
    findEntry [tally5, runtime7, ratio9] 5 = some tally5 ∧ findEntry [tally5, runtime7, ratio9] 7 = some runtime7 ∧
    findEntry [tally5, runtime7, ratio9] 9 = some ratio9 := by decide +kernel
theorem witness_AmendAppliesItsFields_admitted :
    Admitted (asking 0x11 (encodeFieldsBody 5 (amending none (some 1) none none none)) [tally5, runtime7, ratio9]) .p0
      .amend .a (ask 0x11 (encodeFieldsBody 5 (amending none (some 1) none none none))) := admitted_asking _ _ rfl

theorem witness_AmendIsRefusedInOrder :
    (Admitted (asking 0x11 (encodeFieldsBody 5 (fieldsTally 5).2) [tally5]) .p0 .amend .a
        (ask 0x11 (encodeFieldsBody 5 (fieldsTally 5).2)) ∧
      bodyFields (encodeFieldsBody 5 (fieldsTally 5).2) = some (5, (fieldsTally 5).2) ∧
      (fieldsTally 5).2.kind.isSome = true) ∧
    (∀ f ∈ [amending (some 16) none none none none, amending none (some 0) none none none,
        amending none none (some 200) none none, amending none none none (some 0) none,
        amending none none none (some 51) none, amending none none none none (some (List.replicate 17 0x41)),
        amending none none none none (some [0x1F]), amending none none none none (some [0x7F]),
        amending none none none none none],
      Admitted (asking 0x11 (encodeFieldsBody 5 f) [tally5]) .p0 .amend .a (ask 0x11 (encodeFieldsBody 5 f)) ∧
        bodyFields (encodeFieldsBody 5 f) = some (5, f)) ∧
    (findEntry [ratio9] 9 = some ratio9 ∧ ratio9.kind = .ratio ∧
      bodyFields (encodeFieldsBody 9 (amending none (some 7) none none none)) =
        some (9, amending none (some 7) none none none)) ∧
    findEntry [tally5] 5 = some tally5 :=
  ⟨⟨admitted_asking _ _ rfl, by decide +kernel⟩,
   fun f hf => ⟨admitted_asking _ _ rfl, by revert f; decide +kernel⟩, by decide +kernel, by decide +kernel⟩

/-! #### Sound parts -/

theorem tally5_sound : tally5.Sound where
  data := by simp [tally5, KindData.Sound, Config.max32]
  trip := by decide
  hyst := by decide
  label := by decide
  raw := by decide
  score := by decide
  unsettled := by decide
  worst := by decide
  settling := by decide
  held := by decide
  tags := by decide
  runtimeTags := by decide

theorem runtime7_sound : runtime7.Sound where
  data := by simp [runtime7, KindData.Sound, Config.max32]
  trip := by decide
  hyst := by decide
  label := by decide
  raw := by decide
  score := by decide
  unsettled := by decide
  worst := by decide
  settling := by decide
  held := by decide
  tags := by decide
  runtimeTags := by decide

theorem ratio9_sound : ratio9.Sound where
  data := by simp [ratio9, KindData.Sound, Config.max32, Config.max48]
  trip := by decide
  hyst := by decide
  label := by decide
  raw := by decide
  score := by decide
  unsettled := by decide
  worst := by decide
  settling := by decide
  held := by decide
  tags := by decide
  runtimeTags := by decide

theorem ratioFull_sound : ratioFull.Sound where
  data := by simp [ratioFull, KindData.Sound, Config.max32, Config.max48]
  trip := by decide
  hyst := by decide
  label := by decide
  raw := by decide
  score := by decide
  unsettled := by decide
  worst := by decide
  settling := by decide
  held := by decide
  tags := by decide
  runtimeTags := by decide

/-- A pool is sound when its 256 records pass the checks one by one. -/
theorem poolSound_of (s : State)
    (h : s.pool.length = 256 ∧ (heldRecords s.table).Nodup ∧ (∀ n ∈ heldRecords s.table, n < 256) ∧
      (∀ n ∈ List.range 256, recordFree s.table n = true → recordAt s.pool n = .zero) ∧
      ∀ r ∈ s.pool, r.errors ≤ r.exposure ∧ r.exposure ≤ Config.max32) : PoolSound s := by
  refine ⟨h.1, h.2.1, h.2.2.1, fun n hn => ?_, h.2.2.2.2⟩
  by_cases hlt : n < 256
  · exact h.2.2.2.1 n (List.mem_range.2 hlt) hn
  · have hle : s.pool.length ≤ n := by have := h.1; omega
    simp [recordAt, List.getD, List.getElem?_eq_none hle]

/-- The ratio entry alone in the table, with the pool that belongs to it. -/
def counting (body : List Byte) (full : Bool) : State :=
  if full then { asking 0x20 body [tally5, ratioFull] with pool := poolFull } else asking 0x20 body [tally5, ratio9]

theorem entriesSound_counting (body : List Byte) (full : Bool) : EntriesSound (counting body full) := by
  intro e he
  cases full
  · rcases List.mem_cons.1 he with rfl | he
    · exact tally5_sound
    · exact List.mem_singleton.1 he ▸ ratio9_sound
  · rcases List.mem_cons.1 he with rfl | he
    · exact tally5_sound
    · exact List.mem_singleton.1 he ▸ ratioFull_sound

theorem poolSound_counting (body : List Byte) (full : Bool) : PoolSound (counting body full) := by
  cases full
  · have h : PoolSound (asking 0x20 [] [tally5, ratio9]) := poolSound_of _ (by decide +kernel)
    exact h
  · have h : PoolSound { asking 0x20 [] [tally5, ratioFull] with pool := poolFull } :=
      poolSound_of _ (by decide +kernel)
    exact h

theorem tableSound_counting (body : List Byte) (full : Bool) : TableSound (counting body full) := by
  cases full
  · have h : TableSound (asking 0x20 [] [tally5, ratio9]) := by unfold TableSound; decide +kernel
    exact h
  · have h : TableSound { asking 0x20 [] [tally5, ratioFull] with pool := poolFull } := by
      unfold TableSound; decide +kernel
    exact h

theorem portSound_reset {waiting : List WaitingSave} {p : Port} (h : ∀ w ∈ waiting, w.port ≠ p) :
    PortSound waiting p .reset where
  arrival := ⟨by decide, fun k => by cases k <;> simp [PortState.reset, Slots.get]⟩
  answers := ⟨by decide, fun k => by cases k <;> simp [PortState.reset, Slots.get]⟩
  service := fun k r => by cases k <;> simp [PortState.reset, Slots.get]
  waiting := fun k => ⟨fun ⟨_, hb⟩ => absurd rfl (h _ hb), fun ⟨r, hr⟩ => by cases k <;> cases hr⟩
  counts := by decide
  detached := fun _ => ⟨rfl, fun k r => by cases k <;> simp [PortState.reset, Slots.get]⟩

theorem portSound_queued (p : Port) (r : Request) : PortSound [] p (queuedPort true r) where
  arrival := ⟨by simp [queuedPort], fun k => by cases k <;> simp [queuedPort, Slots.get]⟩
  answers := ⟨by simp [queuedPort, PortState.reset],
    fun k => by cases k <;> simp [queuedPort, PortState.reset, Slots.get]⟩
  service := fun k r => by cases k <;> simp [queuedPort, Slots.get]
  waiting := fun k => by cases k <;> simp [queuedPort, Slots.get]
  counts := by simp [queuedPort, PortState.reset]
  detached := fun h => by cases h

/-- A port with a SAVE WAITING in slot A. -/
def savingPort : PortState :=
  { PortState.reset with attached := true, slots := ⟨.waiting (ask 0x50 []), .free, .free, .free⟩ }

theorem portSound_saving (p : Port) : PortSound [⟨p, .a, .current⟩] p savingPort where
  arrival := ⟨by decide, fun k => by cases k <;> simp [savingPort, PortState.reset, Slots.get]⟩
  answers := ⟨by decide, fun k => by cases k <;> simp [savingPort, PortState.reset, Slots.get]⟩
  service := fun k r => by cases k <;> simp [savingPort, Slots.get]
  waiting := fun k => by cases k <;> simp [savingPort, Slots.get]
  counts := by simp [savingPort, PortState.reset]
  detached := fun h => by cases h

theorem portsSound_asking (code : Byte) (body : List Byte) (table : List Entry) :
    PortsSound (asking code body table) := by
  refine ⟨fun p => ?_, List.nodup_nil⟩
  cases p
  · exact portSound_queued _ _
  all_goals exact portSound_reset (fun w hw => by cases hw)

/-- A snapshot in flight to bank A, with a SAVE of P1 bound to it. -/
def saving (phase : SnapPhase) (attempt : Attempt) (link : Link) : State :=
  { writing [tally5] phase attempt link with
    ports := ⟨.reset, savingPort, .reset, .reset⟩
    snap := { (writing [tally5] phase attempt link).snap with waiting := [⟨.p1, .a, .current⟩] } }

theorem portsSound_saving (phase : SnapPhase) (attempt : Attempt) (link : Link) :
    PortsSound (saving phase attempt link) := by
  refine ⟨fun p => ?_, by simp [saving]⟩
  cases p
  case p1 => exact portSound_saving _
  all_goals exact portSound_reset (fun w hw => by rw [List.mem_singleton.1 hw]; decide)

theorem noticesSound_empty : NoticeUnit.empty.Sound where
  length := by decide
  counter := by decide
  sequences := by decide
  delivered := by decide
  once := by decide
  watch := by decide

theorem noticesSound_asking (code : Byte) (body : List Byte) (table : List Entry) :
    NoticesSound (asking code body table) := fun p => by cases p <;> exact noticesSound_empty

theorem leaseSound_asking (code : Byte) (body : List Byte) (table : List Entry) :
    LeaseSound (asking code body table) := ⟨rfl, (by decide : 1 ≤ 4), (by decide : 4 ≤ 9), (by decide : 9 ≤ 255), 0, rfl, by decide⟩

/-- The counts of a part that has just started blank. -/
theorem countsSound_running (s : State) (ha : s.accrual = .reset) (hp : s.phase ≠ .starting)
    (hn : s.snap = { Snapshot.reset with autosave := some 19660800 }) (hl : s.link = .reset) : CountsSound s where
  owed := by rw [ha]; decide
  pending := by rw [ha]; decide
  starting := fun h => absurd h hp
  second := by rw [ha]; decide
  changes := by rw [hn]; decide
  generation := by rw [hn]; decide
  interval := by rw [hn]; decide
  autosave := fun left h => by rw [hn] at h ⊢; cases h; decide
  timeout := fun t h => by rw [hl] at h; cases h

/-- The part in RUNNING: two entries, a lease, a REPORT QUEUED. -/
theorem sound_counting (body : List Byte) : Sound (counting body false) where
  lines := by have h : LinesFollow (asking 0x20 [] [tally5, ratio9]) := by unfold LinesFollow; decide
              exact h
  lease := leaseSound_asking _ _ _
  table := tableSound_counting body false
  entries := entriesSound_counting body false
  pool := poolSound_counting body false
  ports := portsSound_asking _ _ _
  notices := noticesSound_asking _ _ _
  phase := ⟨fun h => (by cases h), fun h => (by cases h), fun _ => ⟨⟨fun h => (by cases h), fun h => by cases h⟩, rfl⟩,
    fun _ h => (by cases h), fun _ => rfl⟩
  counts := countsSound_running _ rfl (fun h => by cases h) rfl rfl
  snapshot :=
    { idle := ⟨fun _ => rfl, fun _ => rfl⟩
      timer := by simp [counting, asking, running, State.reset, Link.reset]
      busy := fun o h => by cases h
      op := fun o h => by cases h
      flight := fun h => by rcases h with h | h <;> cases h
      again := fun h => by cases h
      requested := fun h => by cases h
      starting := fun h => by cases h
      reset := fun h => by cases h }
  watches := fun p id hid => by cases p <;> cases hid

/-- The same part in FROZEN. -/
def frozenPart : State :=
  { counting [1, 5, 0, 1, 0] false with phase := .frozen, pins := { (running []).pins with pfwN := true } }

theorem sound_frozenPart : Sound frozenPart :=
  let h := sound_counting [1, 5, 0, 1, 0]
  { lines := h.lines, lease := h.lease, table := h.table, entries := h.entries, pool := h.pool, ports := h.ports
    notices := h.notices, watches := h.watches
    counts := countsSound_running _ rfl (fun h => by cases h) rfl rfl
    phase := ⟨fun h => (by cases h), fun h => (by cases h), fun _ => ⟨⟨fun _ => rfl, fun _ => rfl⟩, rfl⟩,
      fun _ h => (by cases h), fun _ => rfl⟩
    snapshot :=
      { idle := h.snapshot.idle, timer := h.snapshot.timer, busy := h.snapshot.busy
        op := fun o ho => (by cases ho)
        flight := h.snapshot.flight, again := h.snapshot.again, requested := h.snapshot.requested
        starting := fun hp => by cases hp
        reset := fun hp => by cases hp } }

/-- The part while the first header read waits for its page. -/
def headerWait : State := starting .headerA .readyWait (.read 0) .a

theorem sound_headerWait : Sound headerWait where
  lines := ⟨rfl, rfl⟩
  lease := ⟨rfl, fun e he => by cases he⟩
  table := ⟨by decide, List.Pairwise.nil, fun e he => by cases he⟩
  entries := fun e he => by cases he
  pool := poolSound_of _ (by decide +kernel)
  ports := ⟨fun p => by cases p <;> exact portSound_reset (fun w hw => by cases hw), List.nodup_nil⟩
  notices := fun p => by cases p <;> exact noticesSound_empty
  phase := ⟨fun h => (by cases h), fun _ => ⟨rfl, fun p => by cases p <;> rfl⟩, fun h => absurd rfl h,
    fun h => (by cases h), fun h => absurd rfl h⟩
  counts :=
    { owed := by decide, pending := by decide, starting := fun _ => rfl, second := by decide, changes := by decide
      generation := by decide, interval := by decide, autosave := fun _ h => (by cases h)
      timeout := fun _ h => by cases h; decide }
  snapshot :=
    { idle := ⟨fun h => (by cases h), fun h => by cases h⟩
      timer := by simp [headerWait, starting, linked]
      busy := fun o _ h => by cases h
      op := fun o ho => by
        cases ho
        exact ⟨by simp [FlashOp.inRange], rfl, rfl, rfl, by decide⟩
      flight := fun h => by rcases h with h | h <;> cases h
      again := fun h => by cases h
      requested := fun h => by cases h
      starting := fun _ => rfl
      reset := fun h => by cases h }
  watches := fun p id hid => by cases p <;> cases hid

/-! #### Timers and signals -/

theorem test_no_event_before_the_end : (onEdge 1).dueEvents = [] ∧ (onEdge 1).refclk = onEdge 0 := by decide +kernel
theorem test_one_event_at_the_end :
    (onEdge 0).dueEvents.length = 4 ∧ (onEdge 0).refclk.pending.length = 1 ∧
      { (onEdge 0).refclk with pending := [], freeIndex := 0 } = onEdge 0 := by
  refine ⟨by decide +kernel, ?_, rfl⟩
  rfl
theorem test_flash_signals_rest :
    headerWait.flashSignals none = .rest ∧ State.reset.flashSignals (some 0) = .rest ∧
      headerWait.flashSignals (some 32) = .rest := by
  refine ⟨by decide +kernel, by decide +kernel, rfl⟩
/-- The last bit of the command of a status read, then the last bit taken. -/
theorem test_flash_signals_of_a_status_read :
    (headerWait.flashSignals (some 14) = ⟨true, false, true⟩ ∧ headerWait.flashSignals (some 15) = ⟨true, true, true⟩) ∧
    (headerWait.flashSignals (some 31)).mcs = true ∧ (headerWait.flashSignals (some 31)).mck = true ∧
    (headerWait.flashSignals (some 30)).mck = false := ⟨⟨rfl, rfl⟩, rfl, rfl, rfl⟩
/-- MDI is low in every first half and carries 0x81 in the second halves of the last eight periods. -/
theorem test_status_byte_is_sampled_as_MCK_rises :
    FlashTransaction.statusRead.command
        (FlashTransaction.statusRead.takenBits 0 (zeros 1 ++ [0x81] |>.flatMap bitsOfByte |>.flatMap fun b => [false, b])) =
      some (.statusRead 0x81) := by rfl

/-! #### The table, the scores and the reports -/

theorem witness_RetireRemovesTheEntry :
    Admitted (asking 0x12 [9] [tally5, ratio9]) .p0 .retire .a (ask 0x12 [9]) ∧
    bodyByte (ask 0x12 [9]).body = some 9 ∧ findEntry [tally5, ratio9] 9 = some ratio9 ∧
    TableSound (asking 0x12 [9] [tally5, ratio9]) ∧ PoolSound (asking 0x12 [9] [tally5, ratio9]) :=
  ⟨admitted_asking _ _ rfl, by decide, by decide, tableSound_counting [9] false, poolSound_counting [9] false⟩

theorem witness_RenewRestartsTheEntry :
    (∀ e ∈ [tally5, runtime7, ratioFull],
      Admitted (asking 0x13 [byteOf e.id] [tally5, runtime7, ratioFull]) .p0 .renew .a (ask 0x13 [byteOf e.id]) ∧
      bodyByte (ask 0x13 [byteOf e.id]).body = some e.id ∧ findEntry [tally5, runtime7, ratioFull] e.id = some e) ∧
    PoolSound (counting [] true) :=
  ⟨fun e he => ⟨admitted_asking _ _ rfl, by revert e; decide +kernel⟩, poolSound_counting [] true⟩

theorem witness_DescribeAndListOnlyRead :
    (Admitted (asking 0x14 [5] [tally5]) .p0 .describe .a (ask 0x14 [5]) ∧ bodyByte (ask 0x14 [5]).body = some 5 ∧
      findEntry [tally5] 5 = some tally5) ∧
    (Admitted (asking 0x15 [7] [tally5, runtime7, ratio9]) .p0 .list .a (ask 0x15 [7]) ∧
      bodyByte (ask 0x15 [7]).body = some 7 ∧ [tally5, runtime7, ratio9] = [tally5] ++ [runtime7, ratio9] ∧
      (∀ e ∈ [tally5], e.id < 7) ∧ ∀ e ∈ [runtime7, ratio9], 7 ≤ e.id) :=
  ⟨⟨admitted_asking _ _ rfl, by decide, by decide⟩, admitted_asking _ _ rfl, by decide +kernel⟩

theorem witness_DescribeRecordLayout :
    (tally5.Sound ∧ tally5.id ≤ 254) ∧ (runtime7.Sound ∧ runtime7.id ≤ 254) ∧ (ratioFull.Sound ∧ ratioFull.id ≤ 254) :=
  ⟨⟨tally5_sound, by decide⟩, ⟨runtime7_sound, by decide⟩, ratioFull_sound, by decide⟩

theorem witness_MissingEntryIsAnswered :
    findEntry [tally5] 6 = none ∧
    (Admitted (asking 0x11 (encodeFieldsBody 6 (amending none none (some 1) none none)) [tally5]) .p0 .amend .a
        (ask 0x11 (encodeFieldsBody 6 (amending none none (some 1) none none))) ∧
      bodyFields (encodeFieldsBody 6 (amending none none (some 1) none none)) =
        some (6, amending none none (some 1) none none)) ∧
    Admitted (asking 0x12 [6] [tally5]) .p0 .retire .a (ask 0x12 [6]) ∧
    Admitted (asking 0x13 [6] [tally5]) .p0 .renew .a (ask 0x13 [6]) ∧
    Admitted (asking 0x14 [6] [tally5]) .p0 .describe .a (ask 0x14 [6]) ∧
    Admitted (asking 0x16 [6] [tally5]) .p0 .clear .a (ask 0x16 [6]) ∧
    Admitted (asking 0x30 [6] [tally5]) .p0 .watch .a (ask 0x30 [6]) ∧
    (Admitted (asking 0x17 [6, 9] [tally5]) .p0 .override .a (ask 0x17 [6, 9]) ∧
      bodyTwoBytes (ask 0x17 [6, 9]).body = some (6, 9)) ∧ bodyByte [6] = some 6 :=
  ⟨by decide, ⟨admitted_asking _ _ rfl, by decide +kernel⟩, admitted_asking _ _ rfl, admitted_asking _ _ rfl,
   admitted_asking _ _ rfl, admitted_asking _ _ rfl, admitted_asking _ _ rfl, ⟨admitted_asking _ _ rfl, by decide⟩,
   by decide⟩

theorem witness_VerdictMachineTransitions :
    ratio9.computed = .settling ∧ tally5.computed = .good ∧
    { tally5 with computed := .tripped, score := 25 }.computed = .tripped ∧
    { tally5 with computed := .held, score := 20 }.computed = .held ∧ 1 ≤ tally5.hyst ∧ tally5.trip ≤ 199 := by decide

theorem witness_ClearActsOnTheComputedVerdict :
    (Admitted (asking 0x16 [5] [{ tally5 with computed := .held, score := 21 }]) .p0 .clear .a (ask 0x16 [5]) ∧
      bodyByte (ask 0x16 [5]).body = some 5 ∧ tally5.trip < 21) ∧
    Admitted (asking 0x16 [5] [{ tally5 with computed := .tripped, score := 24 }]) .p0 .clear .a (ask 0x16 [5]) ∧
    Admitted (asking 0x16 [9] [ratio9]) .p0 .clear .a (ask 0x16 [9]) ∧
    (∀ e ∈ [{ tally5 with computed := .held, score := 21 }, { tally5 with computed := .tripped, score := 24 }, tally5],
      findEntry [e] 5 = some e) ∧
    findEntry [ratio9] 9 = some ratio9 ∧ tally5.computed = .good ∧ ratio9.computed = .settling :=
  ⟨⟨admitted_asking _ _ rfl, by decide⟩, admitted_asking _ _ rfl, admitted_asking _ _ rfl, by decide +kernel⟩

theorem witness_OverrideSetsThePublishedVerdict :
    ∀ v ∈ [(0 : Byte), 1, 2, 3, 255],
      Admitted (asking 0x17 [5, v] [tally5]) .p0 .override .a (ask 0x17 [5, v]) ∧
      bodyTwoBytes (ask 0x17 [5, v]).body = some (5, v.toNat) ∧ findEntry [tally5] 5 = some tally5 :=
  fun v hv => ⟨admitted_asking _ _ rfl, by revert v; decide⟩

theorem witness_UsageScoreFalls :
    (1 ≤ 1 ∧ 1 * 0 ≤ 100 * 0 ∧ 100 * 0 < 1 * (0 + 1)) ∧ (100 * 98 ≤ 100 * 98 ∧ 100 * 98 < 100 * (98 + 1)) ∧
    (100 * 99 ≤ 100 * 99 ∧ 100 * 99 < 100 * (99 + 1)) := by decide

theorem witness_RatioScoreFollowsTheRate :
    (1 ≤ 2500 ∧ 1 ≤ 2500 ∧ 1 ≤ 500 ∧ 500 ≤ 1000000 ∧ 2500 * 400 ≤ 1 * 1000000 ∧ 1 * 1000000 < 2500 * (400 + 1) ∧
      500 * 80 ≤ 100 * 400 ∧ 100 * 400 < 500 * (80 + 1)) ∧
    (1 * 1000000 = 2000 * 500) ∧ (1000 * (2 * 500) ≤ 1 * 1000000) := by decide

/-- TALLY entry 5 that only P1 may write. -/
def foreign5 : Entry := { tally5 with writers := ⟨false, true, false, false⟩ }

theorem witness_ReportIsRefusedWhole :
    (findEntry [tally5, runtime7, ratio9] 6 = none) ∧
    (findEntry [tally5, runtime7, ratio9] 7 = some runtime7 ∧ runtime7.kind = .runtime) ∧
    (findEntry [foreign5] 5 = some foreign5 ∧ foreign5.kind ≠ .runtime ∧ foreign5.writers.get .p0 = false) ∧
    (tally5.kind = .tally ∧ tally5.writers.get .p0 = true ∧ (none : Option Nat) ≠ some 0 ∧
      ItemValue.tally 1 = .tally 1 ∧ 1 ≤ 1) ∧
    (ratio9.kind = .ratio ∧ ratio9.writers.get .p0 = true ∧ (some 1 : Option Nat) ≠ some 0 ∧
      ItemValue.ratio 1 1 = .ratio 1 1 ∧ 1 ≤ 1) ∧
    (Admitted (asking 0x20 [2, 5, 0, 1, 0, 9, 2, 2, 0, 1, 0, 0] [tally5, ratio9]) .p0 .report .a
        (ask 0x20 [2, 5, 0, 1, 0, 9, 2, 2, 0, 1, 0, 0]) ∧
      bodyItems [2, 5, 0, 1, 0, 9, 2, 2, 0, 1, 0, 0] = some ([⟨5, none, .tally 1⟩] ++ ⟨9, none, .ratio 2 1⟩ :: []) ∧
      (∀ j ∈ [(⟨5, none, .tally 1⟩ : Item)], j.failure [tally5, ratio9] .p0 = none) ∧
      (⟨9, none, .ratio 2 1⟩ : Item).failure [tally5, ratio9] .p0 = some .outOfRange) :=
  ⟨by decide, by decide, by decide, by decide, by decide, admitted_asking _ _ rfl, by decide +kernel⟩

theorem witness_ReportAppliesATallyItem :
    ∀ i ∈ [(⟨5, none, .tally 1⟩ : Item), ⟨5, some 4294967295, .tally 65535⟩],
      Admitted (asking 0x20 (encodeItemsBody [i]) [tally5]) .p0 .report .a (ask 0x20 (encodeItemsBody [i])) ∧
      bodyItems (encodeItemsBody [i]) = some [i] ∧ i.failure [tally5] .p0 = none ∧
      findEntry [tally5] i.id = some tally5 ∧ tally5.data = .tally 100 ∧ ∀ tag ∈ i.tag, tag ∉ tally5.tags :=
  fun i hi => ⟨admitted_asking _ _ rfl, by revert i; decide +kernel⟩

/-- An item for RATIO entry 9 without errors. -/
def exposes (exposure : Nat) : Item := ⟨9, some 1, .ratio 0 exposure⟩

theorem witness_ReportAppliesARatioItem :
    (∀ exposure ∈ [999, 1000, 16777215],
      Admitted (counting (encodeItemsBody [exposes exposure]) false) .p0 .report .a
        (ask 0x20 (encodeItemsBody [exposes exposure])) ∧
      bodyItems (encodeItemsBody [exposes exposure]) = some [exposes exposure] ∧
      (exposes exposure).failure [tally5, ratio9] .p0 = none ∧ findEntry [tally5, ratio9] 9 = some ratio9 ∧
      EntriesSound (counting (encodeItemsBody [exposes exposure]) false) ∧
      PoolSound (counting (encodeItemsBody [exposes exposure]) false)) ∧
    (Admitted (counting (encodeItemsBody [exposes 1]) true) .p0 .report .a (ask 0x20 (encodeItemsBody [exposes 1])) ∧
      (exposes 1).failure [tally5, ratioFull] .p0 = none ∧ findEntry [tally5, ratioFull] 9 = some ratioFull ∧
      EntriesSound (counting (encodeItemsBody [exposes 1]) true) ∧
      PoolSound (counting (encodeItemsBody [exposes 1]) true) ∧
      1000 ≤ (recordAt poolFull 3).exposure + 1) :=
  ⟨fun x hx => ⟨admitted_asking _ _ rfl, by revert x; decide +kernel, by revert x; decide +kernel, by decide,
      entriesSound_counting _ false, poolSound_counting _ false⟩,
   ⟨⟨rfl, rfl⟩, fun _ => rfl, fun _ => rfl, fun _ hf => (by cases hf)⟩, by decide, by decide,
   entriesSound_counting _ true, poolSound_counting _ true, by decide⟩

/-- An item meets an open epoch at an exposure of 2^32-1, which an image may hold. -/
theorem witness_ReportAppliesARatioItem_past_32_bits :
    Admitted { counting (encodeItemsBody [exposes 1]) true with pool := poolFull.set 3 ⟨0, 4294967295⟩ } .p0 .report .a
        (ask 0x20 (encodeItemsBody [exposes 1])) ∧
      EntriesSound { counting (encodeItemsBody [exposes 1]) true with pool := poolFull.set 3 ⟨0, 4294967295⟩ } ∧
      PoolSound { counting (encodeItemsBody [exposes 1]) true with pool := poolFull.set 3 ⟨0, 4294967295⟩ } :=
  ⟨⟨⟨rfl, rfl⟩, fun _ => rfl, fun _ => rfl, fun _ hf => (by cases hf)⟩,
    entriesSound_counting (encodeItemsBody [exposes 1]) true,
    have h : PoolSound { asking 0x20 [] [tally5, ratioFull] with pool := poolFull.set 3 ⟨0, 4294967295⟩ } :=
      poolSound_of _ (by decide +kernel)
    h⟩

/-- Twice the same tagged increment for entry 5. -/
def twice : Item := ⟨5, some 4001, .tally 1⟩

theorem witness_RepeatedTagIsSuppressed :
    twice.tag = some 4001 ∧ (findEntry [{ tally5 with tags := [4001] }] 5 = some { tally5 with tags := [4001] }) ∧
    ((running [tally5]).applyItem twice).2 = true ∧
    (Admitted (asking 0x20 (encodeItemsBody [twice, twice]) [tally5]) .p0 .report .a
        (ask 0x20 (encodeItemsBody [twice, twice])) ∧
      bodyItems (encodeItemsBody [twice, twice]) = some [twice, twice] ∧ twice.failure [tally5] .p0 = none ∧
      findEntry [tally5] 5 = some tally5 ∧ 4001 ∉ tally5.tags) :=
  ⟨rfl, by decide, by decide +kernel, admitted_asking _ _ rfl, by decide +kernel⟩

theorem witness_ReportCountsItsItems :
    Admitted (asking 0x20 (encodeItemsBody (List.replicate 8 twice)) [tally5]) .p0 .report .a
      (ask 0x20 (encodeItemsBody (List.replicate 8 twice))) ∧
    bodyItems (encodeItemsBody (List.replicate 8 twice)) = some (List.replicate 8 twice) ∧
    (∀ i ∈ List.replicate 8 twice, i.failure [tally5] .p0 = none) ∧
    ((running [tally5]).applyItem twice).2 = true ∧
    (findEntry [{ tally5 with tags := [4001] }] 5 = some { tally5 with tags := [4001] } ∧
      twice.failure [{ tally5 with tags := [4001] }] .p0 = none ∧
      ((running [{ tally5 with tags := [4001] }]).applyItem twice).2 = false) ∧
    ((running [tally5]).applyItems (List.replicate 8 twice)).2 = 1 :=
  ⟨admitted_asking _ _ rfl, by decide +kernel⟩

theorem witness_SecondTickOwesASecond :
    (running []).pins.resetN = false ∧ (running []).phase ≠ .starting ∧ headerWait.pins.resetN = false ∧
      headerWait.phase = .starting := by decide

/-- The accrual job is the arbiter's choice, with seconds owed and pending. -/
def accruing (phase : DevicePhase) : State :=
  { running [tally5, runtime7] with phase := phase, accrual := ⟨true, 0, 65535, 1, 0, 65535⟩ }

theorem witness_AccrualJobAddsOrHoldsSeconds :
    ((accruing .running).arbiterChoice = some .accrual ∧ (accruing .running).phase = .running ∧
      TableSound (accruing .running) ∧ findEntry (accruing .running).table 7 = some runtime7 ∧
      findEntry (accruing .running).table 5 = some tally5) ∧
    ((accruing .frozen).arbiterChoice = some .accrual ∧ (accruing .frozen).phase = .frozen) := by
  unfold TableSound; decide +kernel

/-! #### Watch lists, notices and the lease -/

/-- P0 asks, with these watched ids and this queue. -/
def noticing (code : Byte) (body : List Byte) (watch : List Nat) (queue : List Notice) : State :=
  { asking code body [tally5] with
    ports := ⟨{ queuedPort true (ask code body) with notices := ⟨watch, queue, false, queue.length⟩ }, .reset, .reset, .reset⟩ }

theorem admitted_noticing {code : Byte} {c : RequestCode} (body : List Byte) (watch : List Nat) (queue : List Notice)
    (h : requestOf code = some c) : Admitted (noticing code body watch queue) .p0 c .a (ask code body) :=
  ⟨⟨rfl, h⟩, fun _ => rfl, fun _ => rfl, fun _ hf => by cases hf⟩

theorem witness_WatchListsFollowRequests :
    (Admitted (noticing 0x30 [5] [5] []) .p0 .watch .a (ask 0x30 [5]) ∧ bodyByte [5] = some 5 ∧
      findEntry [tally5] 5 = some tally5 ∧ 5 ∈ [5]) ∧
    (Admitted (noticing 0x30 [5] (List.range' 6 32) []) .p0 .watch .a (ask 0x30 [5]) ∧ 5 ∉ List.range' 6 32 ∧
      32 ≤ (List.range' 6 32).length) ∧
    (Admitted (noticing 0x30 [5] (List.range' 6 31) []) .p0 .watch .a (ask 0x30 [5]) ∧ 5 ∉ List.range' 6 31 ∧
      (List.range' 6 31).length < 32) ∧
    Admitted (noticing 0x31 [5] [5] []) .p0 .unwatch .a (ask 0x31 [5]) :=
  ⟨⟨admitted_noticing _ _ _ rfl, by decide⟩, ⟨admitted_noticing _ _ _ rfl, by decide⟩,
   ⟨admitted_noticing _ _ _ rfl, by decide⟩, admitted_noticing _ _ _ rfl⟩

/-- A SNAPSHOT_FAILED notice. -/
def failedNotice (seq : Nat) (delivered : Bool) : Notice := ⟨seq, .system .snapshotFailed, delivered⟩

theorem test_notice_records :
    Notice.bytes ⟨0x1234, .verdict 5 .good .tripped 20 255, true⟩ = [0x34, 0x12, 1, 5, 2, 3, 20, 255, 0, 0xFF, 0, 1] ∧
    Notice.bytes ⟨1, .retired 5 20 1, false⟩ = [1, 0, 2, 5, 0, 0, 20, 1, 0, 0xFF, 0, 0] ∧
    Notice.bytes ⟨1, .system (.leaseEnded .p3 .expired), false⟩ = [1, 0, 3, 0, 0, 0, 0, 1, 2, 3, 2, 0] := by decide +kernel

theorem witness_FetchAndAckServeTheQueue :
    (Admitted (noticing 0x32 [] [] [failedNotice 1 false]) .p0 .fetch .a (ask 0x32 []) ∧ (ask 0x32 []).body = []) ∧
    (Admitted (noticing 0x33 [1, 0] [] [failedNotice 1 false]) .p0 .ack .a (ask 0x33 [1, 0]) ∧
      bodyWord [1, 0] = some 1 ∧ ∀ x ∈ [failedNotice 1 false], x.seq = 1 → x.delivered = false) ∧
    (Admitted (noticing 0x33 [2, 0] [] [failedNotice 1 true, failedNotice 2 true]) .p0 .ack .a (ask 0x33 [2, 0]) ∧
      bodyWord [2, 0] = some 2 ∧
      [failedNotice 1 true, failedNotice 2 true] = [failedNotice 1 true] ++ failedNotice 2 true :: [] ∧
      (failedNotice 2 true).seq = 2 ∧ (failedNotice 2 true).delivered = true ∧
      ∀ y ∈ [failedNotice 1 true], y.seq ≠ 2) :=
  ⟨⟨admitted_noticing _ _ _ rfl, rfl⟩, ⟨admitted_noticing _ _ _ rfl, by decide⟩, admitted_noticing _ _ _ rfl, by decide⟩

/-- A VERDICT notice, or a RETIRED one, for entry 5. -/
def verdictNotice (count : Nat) : Notice := ⟨2, .verdict 5 .good .tripped 20 count, false⟩
def retiredNotice (count : Nat) : Notice := ⟨2, .retired 5 20 count, false⟩

theorem witness_EventsFindTheirPlaceInAQueue :
    (5 ∉ ([] : List Nat) ∧ 5 ∈ [5]) ∧
    ([failedNotice 1 true, verdictNotice 255] = [failedNotice 1 true] ++ verdictNotice 255 :: [] ∧
      ∀ x ∈ [failedNotice 1 true] ++ [], x.openId ≠ some 5) ∧
    (⟨2, .retired 5 20 1, false⟩ ∈ [failedNotice 1 true, retiredNotice 1] ∧
      ∀ x ∈ [failedNotice 1 true, retiredNotice 1], x.openId = none ∨ x = retiredNotice 1) ∧
    ((∀ x ∈ List.replicate 16 (failedNotice 1 false), x.openId ≠ some 5) ∧
      ¬ (List.replicate 16 (failedNotice 1 false)).length < 16) ∧
    ((∀ x ∈ List.replicate 15 (failedNotice 1 false), x.openId ≠ some 5) ∧
      (List.replicate 15 (failedNotice 1 false)).length < 16) := by decide +kernel

theorem witness_ClaimTakesTheLease :
    (Admitted (asking 0x40 [0] []) .p0 .claim .a (ask 0x40 [0]) ∧ bodyByte [0] = some 0) ∧
    (Admitted (asking 0x40 [255] []) .p0 .claim .a (ask 0x40 [255]) ∧ bodyByte [255] = some 255 ∧
      (asking 0x40 [255] []).lease.holder = some .p0) ∧
    (Admitted { asking 0x40 [1] [] with lease := .unheld } .p0 .claim .a (ask 0x40 [1]) ∧ Lease.unheld.holder = none) ∧
    (Admitted { asking 0x40 [1] [] with lease := ⟨some .p3, 9, 1, some 0⟩ } .p0 .claim .a (ask 0x40 [1]) ∧
      Port.p3 ≠ .p0) :=
  ⟨⟨admitted_asking _ _ rfl, rfl⟩, ⟨admitted_asking _ _ rfl, rfl, rfl⟩,
   ⟨⟨⟨rfl, rfl⟩, fun _ => rfl, fun h => absurd h (by decide), fun _ hf => (by cases hf)⟩, rfl⟩,
   ⟨⟨rfl, rfl⟩, fun _ => rfl, fun h => absurd h (by decide), fun _ hf => (by cases hf)⟩, by decide⟩

theorem witness_ReleaseEndsTheLease :
    (Admitted (asking 0x41 [] [tally5]) .p0 .release .a (ask 0x41 []) ∧ (ask 0x41 []).body = [] ∧
      (asking 0x41 [] [tally5]).lease.holder = some .p0) ∧
    (Admitted { asking 0x41 [] [] with lease := .unheld } .p0 .release .a (ask 0x41 []) ∧
      Lease.unheld.holder ≠ some .p0) :=
  ⟨⟨admitted_asking _ _ rfl, rfl, rfl⟩,
   ⟨⟨rfl, rfl⟩, fun _ => rfl, fun h => absurd h (by decide), fun _ hf => (by cases hf)⟩, by decide⟩

theorem witness_LeaseCountsDownAndExpires :
    ({ asking 0x32 [] [] with lease := ⟨some .p0, 9, 1, some 0⟩ }.lease.holder = some .p0 ∧
      { asking 0x32 [] [] with lease := ⟨some .p0, 9, 1, some 0⟩ }.lease.remaining ≤ 1) ∧
    ({ asking 0x32 [] [] with lease := ⟨some .p0, 9, 2, some 0⟩ }.lease.holder = some .p0 ∧
      2 ≤ { asking 0x32 [] [] with lease := ⟨some .p0, 9, 2, some 0⟩ }.lease.remaining) ∧
    (running []).lease.holder = none := by decide

/-! #### Ports, snapshots, the memory link and start-up -/

/-- P0 with every slot taken. -/
def fullPort : PortState :=
  { PortState.reset with
    attached := true, arrival := [.a, .b, .c, .d]
    slots := ⟨.queued (ask 0x32 []), .queued (ask 0x32 []), .queued (ask 0x32 []), .queued (ask 0x32 [])⟩ }

theorem witness_FrameArrivalFillsASlot :
    ((asking 0x32 [] []).pins.resetN = false ∧ (asking 0x32 [] []).pins.prstN.get .p0 = false ∧
      ((asking 0x32 [] []).ports.get .p0).reading = none ∧ (zeros 60).length ≤ 60 ∧
      ((asking 0x32 [] []).ports.get .p0).slots.get .b = .free ∧
      (∀ j ∈ [SlotNo.a, .b, .c, .d].takeWhile fun i => decide (i ≠ .b),
        ((asking 0x32 [] []).ports.get .p0).slots.get j ≠ .free) ∧ (asking 0x32 [] []).phase ≠ .starting) ∧
    (headerWait.pins.resetN = false ∧ headerWait.pins.prstN.get .p0 = false ∧
      (headerWait.ports.get .p0).reading = none ∧ (headerWait.ports.get .p0).slots.get .a = .free ∧
      [SlotNo.a, .b, .c, .d].takeWhile (fun i => decide (i ≠ .a)) = [] ∧ headerWait.phase = .starting) ∧
    ∀ k ∈ [SlotNo.a, .b, .c, .d], fullPort.slots.get k ≠ .free := by decide +kernel

theorem witness_UnusableTransactionsAreCounted :
    ((running []).pins.resetN = false ∧ (running []).pins.prstN.get .p0 = false ∧
      ((running []).ports.get .p0).reading = none) ∧
    (64 < (zeros 65).length) ∧ ([3, 0, 0] : List Byte).length < 4 ∧
    (∃ b ∈ ([5, 7, 0x32, 0] : List Byte).head?, b.toNat ≠ 4) ∧
    (([4, 7, 0x32, 0] : List Byte) = [4, 7, 0x32] ++ [0] ∧ crc8 [4, 7, 0x32] ≠ 0) ∧
    State.reset.pins.resetN = true ∧ (⟨false, false, ⟨true, false, false, false⟩⟩ : Pins).prstN.get .p0 = true ∧
    ((0x00 : Byte) ≠ 0xA5 ∧ (0x00 : Byte) ≠ 0x5A) ∧ ([true, false, true, false, true, false, true] : List Bool).length < 8 := by
  decide +kernel

/-- The answer OK to FETCH of an empty queue, in slot A of P0. -/
def okAnswer : Answer := ⟨7, 0x32, .ok, [0, 0, 0]⟩
def answeredPort : PortState :=
  { PortState.reset with attached := true, slots := ⟨.answered okAnswer, .free, .free, .free⟩, answers := [.a] }
/-- P0 reads it. -/
def reading : State :=
  { running [] with ports :=
    ⟨{ answeredPort with reading := some ⟨zeros 12, some (.a, okAnswer)⟩ }, .reset, .reset, .reset⟩ }

theorem witness_ReadTransactionDeliversTheHeadAnswer :
    ({ running [] with ports := ⟨answeredPort, .reset, .reset, .reset⟩ }.pins.resetN = false ∧
      answeredPort.reading = none ∧ answeredPort.answers = .a :: [] ∧ answeredPort.slots.get .a = .answered okAnswer) ∧
    ((running []).ports.get .p0).answers = [] ∧
    ((reading.ports.get .p0).reading = some ⟨zeros 12, some (.a, okAnswer)⟩ ∧
      (reading.ports.get .p0).slots.get .a = .answered okAnswer ∧
      (zeros 12).length + (okAnswer.body.length + 5) ≤ 20 ∧ 19 < (zeros 12).length + (okAnswer.body.length + 5)) ∧
    (State.reset.pins.resetN = true ∧ (⟨false, false, ⟨true, false, false, false⟩⟩ : Pins).prstN.get .p0 = true) ∧
    (0 < [(true, false)].length ∧ 15 < ((List.replicate 16 (true, false)) : List (Bool × Bool)).length) ∧
    (([] : List Bool).length < 8 ∧ (List.replicate 7 true).length < 8 ∧ (0xA5 : Byte) ≠ 0x5A ∧
      (running []).pins.resetN = false ∧ (running []).pins.prstN.get .p0 = false ∧
      ((running []).ports.get .p0).reading = none ∧
      (seen (fun t => (t.ports.get .p0).reading.isSome) (exec (.readSelect .p0) (running []))) = some true) := by
  decide +kernel

theorem witness_RequestEncodingsAgree :
    (ask 0x15 (zeros 60)).body.length ≤ 60 ∧
    (∀ n ∈ (fieldsRatio 1).2.depth, n < 256) ∧ (∀ n ∈ (fieldsRatio 1).2.epochSize, n < 4294967296) ∧
    (∀ l ∈ (fieldsRatio 1).2.label, l.length < 256) ∧
    bodyFields (encodeFieldsBody 1 (fieldsRatio 1).2) = some (1, (fieldsRatio 1).2) ∧
    bodyItems (encodeItemsBody [⟨255, some 4294967295, .tally 65535⟩, ⟨0, none, .ratio 65535 16777215⟩]) =
      some [⟨255, some 4294967295, .tally 65535⟩, ⟨0, none, .ratio 65535 16777215⟩] := by decide +kernel

/-- P0 asks for a SAVE, with the snapshot unit in a phase and with changes counted. -/
def askingSave (phase : SnapPhase) (changes : Nat) : State :=
  { asking 0x50 [] [] with snap := { (running []).snap with phase := phase, changeCount := changes } }

theorem witness_SaveWaitsForItsSnapshot :
    ∀ phase ∈ [SnapPhase.idle, .writing, .verifying], ∀ changes ∈ [0, 1],
      Admitted (askingSave phase changes) .p0 .save .a (ask 0x50 []) ∧ (ask 0x50 []).body = [] ∧
        (askingSave phase changes).snap.phase = phase ∧ (askingSave phase changes).snap.changeCount = changes := by
  intro phase hp changes _
  refine ⟨⟨⟨?_, rfl⟩, fun _ => rfl, fun _ => rfl, fun _ hf => (by cases hf)⟩, rfl, rfl, rfl⟩
  cases phase
  case capturePending => exact absurd hp (by decide)
  all_goals rfl

theorem witness_SettingsAndAutosaveTimer :
    (Admitted (asking 0x51 [0xA1, 0x05] []) .p0 .settings .a (ask 0x51 [0xA1, 0x05]) ∧
      bodyWord [0xA1, 0x05] = some 1441) ∧
    (Admitted (asking 0x51 [0xA0, 0x05] []) .p0 .settings .a (ask 0x51 [0xA0, 0x05]) ∧
      bodyWord [0xA0, 0x05] = some 1440) ∧
    (running []).snap.autosave.isSome = true :=
  ⟨⟨admitted_asking _ _ rfl, by decide⟩, ⟨admitted_asking _ _ rfl, by decide⟩, rfl⟩

/-- A capture is requested, with a full table. -/
def capturing (newest : Option Bank) : State :=
  { running (tallies 64) with
    snap := { (running []).snap with
      phase := .capturePending, changeCount := 1, newestBank := newest, newestGen := 4294967295, interval := 1440 } }

/-- RATIO entry 254 with every field of its record at a large value, its window at depth 8. -/
def wideRatio : Entry :=
  { ratioFull with
    id := 254, saturated := true, rawTotal := 281474976710655, label := List.replicate 16 0x7E, worst := 100
    writers := ⟨true, false, false, true⟩
    data := .ratio ⟨1000000, 4294967295, 2147483648, 8⟩
      { lifetime := 281474976710655, settled := true, closed := [0, 1, 2, 3, 4, 5, 6], opened := 255, spares := [254] } }

theorem wideRatio_sound : wideRatio.Sound where
  data := by simp [wideRatio, ratioFull, KindData.Sound, Config.max32, Config.max48]
  trip := by decide
  hyst := by decide
  label := by decide
  raw := by decide
  score := by decide
  unsettled := by decide
  worst := by decide
  settling := by decide
  held := by decide
  tags := by decide
  runtimeTags := by decide

theorem test_entry_record_of_a_ratio_entry :
    wideRatio.recordBytes =
      [254, 0x67, 0x09, 60, 5, 8, 0, 0, 0, 0, 0x40, 0x42, 0x0F, 0x00, 0xFF, 0xFF, 0xFF, 0xFF, 0x00, 0x00, 0x00, 0x80] ++
      List.replicate 12 0xFF ++ [200, 100, 2, 16] ++ List.replicate 16 0x7E ++
      [7, 0, 1, 2, 3, 4, 5, 6, 255, 254] := by decide +kernel
theorem test_entry_record_of_a_runtime_entry :
    { runtime7 with data := .runtime .powered 513 }.recordBytes =
      [7, 0x16, 0x0F, 20, 5, 0, 1, 2, 0, 0] ++ zeros 24 ++ [100, 100, 2, 1, 0x41] ++ zeros 25 := by decide +kernel

theorem witness_CaptureFillsTheBuffer_records :
    ∀ e ∈ [tally5, runtime7, ratioFull, wideRatio], e.Sound ∧ e.id ≤ 254 := by
  intro e he
  simp only [List.mem_cons, List.not_mem_nil, or_false] at he
  rcases he with rfl | rfl | rfl | rfl
  · exact ⟨tally5_sound, by decide⟩
  · exact ⟨runtime7_sound, by decide⟩
  · exact ⟨ratioFull_sound, by decide⟩
  · exact ⟨wideRatio_sound, by decide⟩

theorem witness_CaptureFillsTheBuffer :
    ∀ newest ∈ [none, some Bank.a, some .b],
      (capturing newest).arbiterChoice = some .capture ∧ (capturing newest).table.length ≤ 64 ∧
        PoolSound (capturing newest) ∧ (capturing newest).snap.newestGen ≤ 4294967295 ∧
        (capturing newest).snap.interval ≤ 1440 ∧ (capturing newest).table[63]? = some { tally5 with id := 64 } :=
  fun newest hn =>
    ⟨by revert newest; decide +kernel, by revert newest; decide +kernel,
      poolSound_of _ (by revert newest; decide +kernel), by revert newest; decide +kernel, by revert newest; decide +kernel,
      by revert newest; decide +kernel⟩

/-- The same with one entry: records 1 to 63 are unused. -/
theorem witness_CaptureFillsTheBuffer_unused :
    { capturing none with table := [ratio9] }.arbiterChoice = some .capture ∧
      PoolSound { capturing none with table := [ratio9] } ∧ [ratio9].length ≤ 63 :=
  ⟨by decide +kernel, poolSound_of _ (by decide +kernel), by decide⟩

theorem witness_PowerFailFreezesAndThaws :
    (running []).phase = .running ∧ State.reset.phase ≠ .running ∧ frozenPart.phase = .frozen ∧
      State.reset.phase ≠ .frozen := by decide +kernel

theorem witness_FlashTransactionsFollowTheOperation :
    ((linked .readyWait (.erase 0) .a .snapshot (some ⟨0, 13108⟩)).op = some ⟨.erase 0, .a, .snapshot⟩ ∧
      (0xFE : Byte).getLsbD 0 = false ∧ (0x01 : Byte).getLsbD 0 = true) ∧
    ((writing [] .writing .first (linked .command (.erase 3) .b .snapshot none)).link.phase = .command ∧
      (FlashOp.erase 3).writes = true ∧
      (writing [] .writing .first (linked .command (.erase 3) .b .snapshot none)).link.writeEnabled = false) ∧
    ({ linked .command (.erase 3) .b .snapshot none with writeEnabled := true }.writeEnabled = true ∧
      0x7000 = 0x4000 + 3 * 0x1000) ∧
    ((writing [] .writing .first (linked .command (.program 32) .a .snapshot none)).snap.buffer = some zeroImage ∧
      0x2000 = 0 + 32 * 0x100) ∧
    ((starting .body .command (.read 32) .b).link.op = some ⟨.read 32, .b, .startup⟩ ∧
      0x6000 = 0x4000 + 32 * 0x100 ∧ (zeros 256).length = 256) ∧
    (headerWait.link.op ≠ none ∧ headerWait.pins.resetN = false ∧ State.reset.link.op = none ∧
      State.reset.pins.resetN = true ∧ headerWait.transaction = some .statusRead ∧
      31 < 16 * (FlashTransaction.statusRead.sent.length + FlashTransaction.statusRead.taken) ∧
      16 * (FlashTransaction.statusRead.sent.length + FlashTransaction.statusRead.taken) ≤ 32 ∧
      FlashTransaction.statusRead.sent[0]? = some 0x05 ∧ 15 = 16 * 0 + 2 * 7 + 1 ∧
      FlashTransaction.statusRead.command (bitsOfByte 0x01) = some (.statusRead 0x01) ∧
      seen (fun t => t.link.mdo) (exec (.statusRead 0x01) headerWait) = some FlashTransaction.statusRead.sent) :=
  ⟨by decide, by decide, by decide, ⟨rfl, by decide⟩, ⟨by decide, by decide, List.length_replicate⟩, by decide⟩

theorem witness_SnapshotWritesThenVerifiesInOrder :
    (∀ op ∈ [FlashOp.erase 0, .erase 1, .erase 2, .erase 3, .program 1, .program 31, .program 32, .program 0],
      (saving .writing .first (linked .busyWait op .a .snapshot (some ⟨0, 99⟩))).link.op =
          some ⟨op, .a, .snapshot⟩ ∧
        (saving .writing .first (linked .busyWait op .a .snapshot (some ⟨0, 99⟩))).link.phase = .busyWait) ∧
    (∀ n ∈ [1, 31, 32],
      (saving .verifying .first (linked .command (.read n) .a .snapshot none)).link.op =
          some ⟨.read n, .a, .snapshot⟩ ∧
        (saving .verifying .first (linked .command (.read n) .a .snapshot none)).snap.buffer = some zeroImage ∧
        (zeros 256).length = 256 ∧ zeros 256 = (zeroImage.body.drop (256 * (n - 1))).take 256) := by
  refine ⟨by decide, fun n hn => ⟨rfl, rfl, List.length_replicate, ?_⟩⟩
  show List.replicate 256 (0 : Byte) = ((List.replicate 8192 0).drop (256 * (n - 1))).take 256
  rw [List.drop_replicate, List.take_replicate]
  congr 1
  revert n; decide

theorem witness_SnapshotSucceedsAtTheHeaderRead :
    (saving .verifying .first (linked .command (.read 0) .a .snapshot none)).link.phase = .command ∧
    (saving .verifying .first (linked .command (.read 0) .a .snapshot none)).link.op = some ⟨.read 0, .a, .snapshot⟩ ∧
    (saving .verifying .first (linked .command (.read 0) .a .snapshot none)).snap.buffer = some zeroImage ∧
    zeroImage.header.length = 256 ∧ (wordSum zeroImage.body + fieldAt zeroImage.header 12 4) % 4294967296 = 0 ∧
    PortsSound (saving .verifying .first (linked .command (.read 0) .a .snapshot none)) :=
  ⟨rfl, rfl, rfl, by decide +kernel, by decide +kernel, portsSound_saving _ _ _⟩

theorem witness_FailedAttemptRetriesOnceThenFails :
    ∀ attempt ∈ [Attempt.first, .second],
      ((saving .writing attempt (linked .readyWait (.erase 0) .a .snapshot (some ⟨0, 13108⟩))).link.phase = .readyWait ∧
        (saving .writing attempt (linked .busyWait (.program 0) .a .snapshot (some ⟨0, 99⟩))).link.phase = .busyWait ∧
        (saving .verifying attempt (linked .command (.read 0) .a .snapshot none)).link.phase = .command ∧
        (saving .verifying attempt (linked .command (.read 0) .a .snapshot none)).snap.buffer = some zeroImage ∧
        (saving .verifying attempt (linked .command (.read 0) .a .snapshot none)).snap.attempt = attempt ∧
        (zeros 256).length = 256 ∧ zeros 256 ≠ zeroImage.header) ∧
      PortsSound (saving .writing attempt (linked .readyWait (.erase 0) .a .snapshot (some ⟨0, 13108⟩))) :=
  fun _ _ => ⟨⟨rfl, rfl, rfl, rfl, rfl, List.length_replicate, by decide +kernel⟩, portsSound_saving _ _ _⟩

/-- The second header is awaited; the first was judged so. -/
def secondHeader (first : HeaderVerdict) (phase : LinkPhase) : State :=
  { starting .headerB phase (.read 0) .b with
    startup := { Startup.reset with step := .headerB, verdictA := some first, copyA := some zeroImage.header } }

theorem witness_HeadersFormTheTryOrder :
    (headerWait.link.op = some ⟨.read 0, .a, .startup⟩ ∧ headerWait.link.phase = .readyWait ∧
      headerWait.startup.step = .headerA) ∧
    (zeroImage.header.length = 256 ∧
      (starting .headerA .command (.read 0) .a).link.phase = .command ∧ fieldAt zeroImage.header 0 4 = 0x43555A56 ∧
      fieldAt zeroImage.header 4 2 = 1 ∧ fieldAt zeroImage.header 10 2 = 8192 ∧ fieldAt zeroImage.header 6 4 = 1) ∧
    (∀ first ∈ [HeaderVerdict.implausible, .plausible 1, .plausible 4294967295],
      (secondHeader first .command).link.op = some ⟨.read 0, .b, .startup⟩ ∧
        (secondHeader first .command).startup.step = .headerB ∧
        (secondHeader first .command).startup.verdictA = some first ∧
        (secondHeader first .command).startup.failedNewer = false) := by decide +kernel

/-- Page n of bank A is read, the bank under test, with the pages before it in the load buffer. -/
def loading (phase : LinkPhase) (n : Nat) (image : Image) (sum : Nat) : State :=
  { starting .body phase (.read n) .a with
    startup := { Startup.reset with
      step := .body, verdictA := some (.plausible 1), verdictB := some .implausible, copyA := some image.header
      tryOrder := [.a], underTest := some .a, runningSum := sum, buffer := some image } }

theorem leNat_replicate_zero (n : Nat) : leNat (List.replicate n 0) = 0 := by
  induction n with
  | zero => rfl
  | succ n ih => rw [List.replicate_succ, leNat, ih]; rfl

theorem fieldAt_zeros (n offset w : Nat) : fieldAt (zeros n) offset w = 0 := by
  rw [fieldAt, zeros, List.drop_replicate, List.take_replicate, leNat_replicate_zero]

/-- An image of zeros is loaded as an empty table. -/
theorem loadImage_zeroImage : loadImage zeroImage = some ([], List.replicate 256 ⟨0, 0⟩) := by
  have hu : usedRecords zeroImage.body = [] := by
    rw [usedRecords, List.filter_eq_nil_iff]
    exact fun k _ => by simp [zeroImage, fieldAt_zeros]
  have hp : imagePool zeroImage.body = List.replicate 256 ⟨0, 0⟩ := by
    have h : imagePool zeroImage.body = (List.range 256).map fun _ => ⟨0, 0⟩ :=
      List.map_congr_left fun n _ => by simp [zeroImage, fieldAt_zeros]
    rw [h]; decide +kernel
  have hh : headerInterval zeroImage.header ≤ 1440 ∧ headerCount zeroImage.header ≤ Config.tableSize ∧
      [].length (α := Nat) = headerCount zeroImage.header := by decide +kernel
  have hk : poolOk [] (List.replicate 256 ⟨0, 0⟩) = true := by decide +kernel
  rw [loadImage, hu, hp, if_pos hh]
  show (if ([] : List Nat).Nodup ∧ poolOk [] (List.replicate 256 ⟨0, 0⟩) = true then _ else _) = _
  rw [if_pos ⟨List.nodup_nil, hk⟩]
  rfl

theorem witness_StartUpLoadsTheProvedBank :
    (∀ n ∈ [1, 31, 32],
      (loading .command n ⟨zeroImage.header, zeros (256 * (n - 1))⟩ 0).link.op = some ⟨.read n, .a, .startup⟩ ∧
      (loading .command n ⟨zeroImage.header, zeros (256 * (n - 1))⟩ 0).startup.step = .body ∧
      (loading .command n ⟨zeroImage.header, zeros (256 * (n - 1))⟩ 0).startup.underTest = some .a ∧
      (loading .command n ⟨zeroImage.header, zeros (256 * (n - 1))⟩ 0).startup.buffer =
        some ⟨zeroImage.header, zeros (256 * (n - 1))⟩) ∧
    ((0 + wordSum (zeros 256) + fieldAt zeroImage.header 12 4) % 4294967296 = 0 ∧
      loadImage zeroImage = some ([], List.replicate 256 ⟨0, 0⟩)) ∧
    (0 + wordSum (List.replicate 256 1) + fieldAt zeroImage.header 12 4) % 4294967296 ≠ 0 ∧
    (loading .readyWait 1 ⟨zeroImage.header, []⟩ 0).link.phase = .readyWait :=
  ⟨fun _ _ => ⟨rfl, rfl, rfl, rfl⟩, ⟨by decide +kernel, loadImage_zeroImage⟩, by decide +kernel, rfl⟩

/-! #### What every step keeps -/

theorem witness_FrozenTableStands :
    (Sound frozenPart ∧ seen (fun t => t.phase) (exec (.report .p0) frozenPart) = some .frozen ∧
      frozenPart.phase = .frozen) ∧
    (Sound headerWait ∧ headerWait.phase = .starting ∧
      seen (fun t => t.phase) (exec (.statusRead 0) headerWait) = some .starting) :=
  ⟨⟨sound_frozenPart, by decide +kernel, rfl⟩, sound_headerWait, rfl, by decide +kernel⟩

theorem witness_CapturedImageLoadsBack :
    TableSound (counting [] true) ∧ EntriesSound (counting [] true) ∧ PoolSound (counting [] true) :=
  ⟨tableSound_counting [] true, entriesSound_counting [] true, poolSound_counting [] true⟩

theorem witness_EveryStepKeepsSoundness :
    Sound { counting (encodeItemsBody [exposes 1000]) false with pending := [.report .p0] } ∧
      seen (fun t => t.snap.changeCount)
        (step { counting (encodeItemsBody [exposes 1000]) false with pending := [.report .p0] }) = some 1 :=
  ⟨let h := sound_counting (encodeItemsBody [exposes 1000])
   { lines := h.lines, lease := h.lease, table := h.table, entries := h.entries, pool := h.pool, ports := h.ports
     notices := h.notices, watches := h.watches
     phase := h.phase
     counts := countsSound_running _ rfl (fun h => by cases h) rfl rfl
     snapshot :=
       { idle := h.snapshot.idle, timer := h.snapshot.timer, busy := h.snapshot.busy
         op := fun o ho => (by cases ho)
         flight := h.snapshot.flight, again := h.snapshot.again, requested := h.snapshot.requested
         starting := h.snapshot.starting, reset := h.snapshot.reset } },
   by decide +kernel⟩

theorem witness_EveryStepKeepsTheParts :
    (LinesFollow (asking 0x41 [] [tally5]) ∧ LeaseSound (asking 0x41 [] [tally5]) ∧
      NoticesSound (asking 0x41 [] [tally5])) ∧
    (TableSound (counting [1, 9, 2, 0, 0, 1, 0, 0] true) ∧ EntriesSound (counting [1, 9, 2, 0, 0, 1, 0, 0] true) ∧
      PoolSound (counting [1, 9, 2, 0, 0, 1, 0, 0] true)) ∧
    seen (fun t => t.lease.holder) (step { asking 0x41 [] [tally5] with pending := [.release .p0] }) = some none ∧
    seen (fun t => t.table.map Entry.records)
      (step { counting [1, 9, 2, 0, 0, 1, 0, 0] true with pending := [.report .p0] }) = some [[], [1, 2, 3, 0]] :=
  ⟨⟨⟨rfl, rfl⟩, leaseSound_asking _ _ _, noticesSound_asking _ _ _⟩,
   ⟨tableSound_counting _ true, entriesSound_counting _ true, poolSound_counting _ true⟩,
   by decide +kernel, by decide +kernel⟩

end Sys2Proof.Tests
end

section
/-!
SUPPORT. The scores of chapter 2 as floors: the usage score (R26) and the RATIO score (R38).
-/
namespace Sys2Proof.Machine

/-- The floor of a quotient in the form in which R26 and R38 bound it: divisor × floor. -/
theorem div_eq_of_floor {a b q : Nat} (hlo : b * q ≤ a) (hhi : a < b * (q + 1)) : a / b = q :=
  Nat.div_eq_of_lt_le (Nat.mul_comm q b ▸ hlo) (Nat.mul_comm (q + 1) b ▸ hhi)

/-! ### The usage score (R26) -/

theorem usageScore_of_floor {raw budget q : Nat} (hlo : budget * q ≤ 100 * raw) (hhi : 100 * raw < budget * (q + 1)) :
    usageScore raw budget = if q < 99 then 100 - q else 1 := by
  rw [usageScore, div_eq_of_floor hlo hhi]
  split <;> omega

theorem usageScore_eq_hundred_iff {raw budget : Nat} (hb : 1 ≤ budget) :
    usageScore raw budget = 100 ↔ 100 * raw < budget := by
  rw [← Nat.div_eq_zero_iff_lt hb, usageScore]
  omega

theorem usageScore_eq_one_iff {raw budget : Nat} (hb : 1 ≤ budget) :
    usageScore raw budget = 1 ↔ 99 * budget ≤ 100 * raw := by
  rw [← Nat.le_div_iff_mul_le hb, usageScore]
  omega

theorem usageScore_antitone {raw raw' : Nat} (budget : Nat) (h : raw ≤ raw') :
    usageScore raw' budget ≤ usageScore raw budget := by
  have hq : 100 * raw / budget ≤ 100 * raw' / budget := Nat.div_le_div_right (Nat.mul_le_mul_left 100 h)
  unfold usageScore
  omega

/-- Settles O23: each clause is a fact about the floor of 100 × raw total ÷ budget. -/
theorem usageScoreFalls : Obligations.UsageScoreFalls := by
  intro raw budget hb
  exact ⟨fun q => usageScore_of_floor, usageScore_eq_hundred_iff hb, usageScore_eq_one_iff hb,
    usageScore_bounds raw budget, fun more => usageScore_antitone budget (Nat.le_add_right raw more)⟩

/-! ### The RATIO score (R38) -/

theorem ratioRate_of_floor {errors exposure rate : Nat} (hlo : exposure * rate ≤ errors * 1000000)
    (hhi : errors * 1000000 < exposure * (rate + 1)) : ratioRate errors exposure = rate :=
  div_eq_of_floor hlo hhi

theorem ratioRate_mono {fewer errors : Nat} (exposure : Nat) (h : fewer ≤ errors) :
    ratioRate fewer exposure ≤ ratioRate errors exposure :=
  Nat.div_le_div_right (Nat.mul_le_mul_right 1000000 h)

/-- R38: no more errors than exposure give at most a million parts per million. -/
theorem ratioRate_le_million {errors exposure : Nat} (h : errors ≤ exposure) : ratioRate errors exposure ≤ 1000000 :=
  Nat.div_le_of_le_mul (Nat.mul_le_mul_right 1000000 h)

/-- The RATIO score as a cut of the quotient of step 2 of R38. -/
theorem ratioScore_of_quotient {errors exposure nominal q : Nat}
    (hq : 100 * ratioRate errors exposure / nominal = q) :
    ratioScore errors exposure nominal = if q < 199 then 200 - q else 1 := by
  rw [ratioScore, hq]
  split <;> omega

theorem ratioScore_of_floors {errors exposure nominal rate q : Nat} (hrate : ratioRate errors exposure = rate)
    (hlo : nominal * q ≤ 100 * rate) (hhi : 100 * rate < nominal * (q + 1)) :
    ratioScore errors exposure nominal = if q < 199 then 200 - q else 1 :=
  ratioScore_of_quotient (hrate ▸ div_eq_of_floor hlo hhi)

theorem ratioScore_no_errors (exposure nominal : Nat) : ratioScore 0 exposure nominal = 200 := by
  have hq : 100 * ratioRate 0 exposure / nominal = 0 := by simp [ratioRate]
  rw [ratioScore_of_quotient hq]
  rfl

theorem ratioScore_at_nominal {errors exposure nominal : Nat} (hx : 1 ≤ exposure) (hn : 1 ≤ nominal)
    (h : errors * 1000000 = exposure * nominal) : ratioScore errors exposure nominal = 100 := by
  have hrate : ratioRate errors exposure = nominal := by rw [ratioRate, h, Nat.mul_div_cancel_left _ hx]
  have hq : 100 * ratioRate errors exposure / nominal = 100 := by rw [hrate, Nat.mul_div_cancel 100 hn]
  rw [ratioScore_of_quotient hq]
  rfl

theorem ratioScore_at_twice_nominal {errors exposure nominal : Nat} (hx : 1 ≤ exposure) (hn : 1 ≤ nominal)
    (h : exposure * (2 * nominal) ≤ errors * 1000000) : ratioScore errors exposure nominal = 1 := by
  have hrate : 2 * nominal ≤ ratioRate errors exposure := (Nat.le_div_iff_mul_le hx).2 (Nat.mul_comm exposure _ ▸ h)
  have hq : 200 ≤ 100 * ratioRate errors exposure / nominal := (Nat.le_div_iff_mul_le hn).2 (by omega)
  rw [ratioScore_of_quotient rfl, if_neg (by omega)]

theorem ratioScore_ge_hundred {errors exposure nominal : Nat} (h : ratioRate errors exposure ≤ nominal) :
    100 ≤ ratioScore errors exposure nominal := by
  have hq : 100 * ratioRate errors exposure / nominal ≤ 100 := Nat.div_le_of_le_mul (by omega)
  rw [ratioScore]
  omega

theorem ratioScore_antitone {fewer errors : Nat} (exposure nominal : Nat) (h : fewer ≤ errors) :
    ratioScore errors exposure nominal ≤ ratioScore fewer exposure nominal := by
  have hq : 100 * ratioRate fewer exposure / nominal ≤ 100 * ratioRate errors exposure / nominal :=
    Nat.div_le_div_right (Nat.mul_le_mul_left 100 (ratioRate_mono exposure h))
  unfold ratioScore
  omega

/-- Settles O24: the two floors of R38 give the score, its anchor points and its order. -/
theorem ratioScoreFollowsTheRate : Obligations.RatioScoreFollowsTheRate := by
  intro errors exposure nominal hx hle hn _
  refine ⟨fun rate q hlo hhi hqlo hqhi => ?_, ?_, ratioScore_at_nominal hx hn, ratioScore_at_twice_nominal hx hn,
    ratioScore_bounds errors exposure nominal, ?_, fun fewer => ratioScore_antitone exposure nominal⟩
  · have hrate : ratioRate errors exposure = rate := ratioRate_of_floor hlo hhi
    exact ⟨hrate ▸ ratioRate_le_million hle, ratioScore_of_floors hrate hqlo hqhi⟩
  · rintro rfl
    exact ratioScore_no_errors exposure nominal
  · rintro rfl
    exact ratioScore_ge_hundred (ratioRate_le_million hle)

end Sys2Proof.Machine
end

section
/-!
SUPPORT. One applied RATIO item: the step of the epoch window (R31 to R36), the entry after it (R38 to R40) and the grant of
a REPORT that holds it (R69, R72, R73).
-/
namespace Sys2Proof.Machine

/-! ### Sums (R29, R31, R34, R72) -/

theorem EpochRecord.add_errors {r : EpochRecord} {errors : Nat} (h : r.errors + errors ≤ Config.max32)
    (free n exposure : Nat) : (r.add free n errors exposure).errors = r.errors + errors := if_pos h

theorem EpochRecord.add_exposure {r : EpochRecord} {exposure : Nat} (h : r.exposure + exposure ≤ Config.max32)
    (free n errors : Nat) : (r.add free n errors exposure).exposure = r.exposure + exposure := if_pos h

/-- Log entry 19: a saturating sum stands at 2^48-1 as soon as the exact sum has reached it. -/
theorem satAdd48_eq_max_iff (a b : Nat) : satAdd48 a b = Config.max48 ↔ Config.max48 ≤ a + b := by
  rw [satAdd48]
  omega

/-! ### The window after one item -/

/-- R39, steps 1 to 3: the pool and the window of a RATIO entry after one applied item, settlement included. -/
def observe (free : Nat) (d : RatioDef) (st : RatioState) (errors exposure : Nat) (pool : List EpochRecord) :
    List EpochRecord × RatioState :=
  let c := closeEpoch d (addCounts free pool st.opened errors exposure)
    { st with lifetime := satAdd48 st.lifetime exposure }
  (c.1, settle d c.1 c.2)

theorem closeEpoch_lifetime (d : RatioDef) (pool : List EpochRecord) (st : RatioState) :
    (closeEpoch d pool st).2.lifetime = st.lifetime := by
  unfold closeEpoch
  split
  · rfl
  · split <;> split <;> rfl

theorem closeEpoch_settled (d : RatioDef) (pool : List EpochRecord) (st : RatioState) :
    (closeEpoch d pool st).2.settled = st.settled := by
  unfold closeEpoch
  split
  · rfl
  · split <;> split <;> rfl

theorem recordAt_addCounts_self {pool : List EpochRecord} {m : Nat} (hm : m < pool.length) (free errors exposure : Nat) :
    recordAt (addCounts free pool m errors exposure) m = (recordAt pool m).add free m errors exposure :=
  (recordAt_addCounts hm free errors exposure m).trans (if_pos rfl)

/-- R30: with no record named twice the open epoch is neither a closed epoch nor a spare. -/
theorem opened_notMem {st : RatioState} (h : (st.closed ++ st.opened :: st.spares).Nodup) :
    st.opened ∉ st.closed ++ st.spares :=
  (List.nodup_cons.1 (List.perm_middle.nodup_iff.1 h)).1

/-- R32 to R34: the pool after a closing that opens record x: the closing epoch holds its sum, x is empty, every other
record is as it was. -/
theorem recordAt_closing {st : RatioState} {pool : List EpochRecord} {x : Nat}
    (hnodup : (st.closed ++ st.opened :: st.spares).Nodup)
    (hlt : ∀ n ∈ st.closed ++ st.opened :: st.spares, n < pool.length) (hx : x ∈ st.closed ++ st.spares)
    (free errors exposure : Nat) :
    recordAt ((addCounts free pool st.opened errors exposure).set x .zero) st.opened =
        (recordAt pool st.opened).add free st.opened errors exposure ∧
      recordAt ((addCounts free pool st.opened errors exposure).set x .zero) x = ⟨0, 0⟩ ∧
      ∀ n, n ≠ st.opened → n ≠ x →
        recordAt ((addCounts free pool st.opened errors exposure).set x .zero) n = recordAt pool n := by
  have hopen : st.opened < pool.length := hlt _ (by simp)
  have hne : st.opened ≠ x := fun h => opened_notMem hnodup (h ▸ hx)
  have hxlt : x < (addCounts free pool st.opened errors exposure).length := by
    rw [addCounts, List.length_set]
    exact hlt x (List.perm_middle.mem_iff.2 (List.mem_cons_of_mem _ hx))
  refine ⟨?_, ?_, fun n hn hnx => ?_⟩
  · rw [recordAt_set, if_neg fun h => hne h.1, recordAt_addCounts_self hopen]
  · rw [recordAt_set, if_pos ⟨rfl, hxlt⟩, EpochRecord.zero]
  · rw [recordAt_set, if_neg fun h => hnx h.1, recordAt_addCounts hopen, if_neg hn]

section
variable {free : Nat} {d : RatioDef} {st st' : RatioState} {errors exposure : Nat} {pool pool' : List EpochRecord}

theorem observe_lifetime (hw : observe free d st errors exposure pool = (pool', st')) :
    st'.lifetime = satAdd48 st.lifetime exposure := by
  obtain ⟨rfl, rfl⟩ := Prod.mk.inj hw
  exact closeEpoch_lifetime ..

/-- R36: the settlement test reads the window as the item leaves it. -/
theorem observe_settled (hw : observe free d st errors exposure pool = (pool', st')) :
    st'.settled = (st.settled || decide (d.minExposure ≤ windowExposure pool' st')) := by
  obtain ⟨rfl, rfl⟩ := Prod.mk.inj hw
  rw [settle, closeEpoch_settled]
  rfl

/-- R31: below the epoch size the counts stay in the open epoch, and the window keeps its records. -/
theorem observe_open (hw : observe free d st errors exposure pool = (pool', st')) (hopen : st.opened < pool.length)
    (h : ((recordAt pool st.opened).add free st.opened errors exposure).exposure < d.epochSize) :
    st'.closed = st.closed ∧ st'.opened = st.opened ∧ st'.spares = st.spares ∧
      recordAt pool' st.opened = (recordAt pool st.opened).add free st.opened errors exposure ∧
      ∀ n, n ≠ st.opened → recordAt pool' n = recordAt pool n := by
  have hopened := recordAt_addCounts_self hopen free errors exposure
  rw [observe, closeEpoch_open (by rw [hopened]; exact h)] at hw
  obtain ⟨rfl, rfl⟩ := Prod.mk.inj hw
  exact ⟨rfl, rfl, rfl, hopened, fun n hn => by rw [recordAt_addCounts hopen, if_neg hn]⟩

/-- R32, R34: at the epoch size the open epoch becomes the newest closed one, and the first spare the open one, empty. -/
theorem observe_close {x : Nat} {xs : List Nat} (hw : observe free d st errors exposure pool = (pool', st'))
    (hnodup : (st.closed ++ st.opened :: st.spares).Nodup)
    (hlt : ∀ n ∈ st.closed ++ st.opened :: st.spares, n < pool.length)
    (h : d.epochSize ≤ ((recordAt pool st.opened).add free st.opened errors exposure).exposure)
    (hd : st.closed.length < d.depth) (hs : st.spares = x :: xs) :
    st'.closed = st.closed ++ [st.opened] ∧ st'.opened = x ∧ st'.spares = xs ∧
      recordAt pool' st.opened = (recordAt pool st.opened).add free st.opened errors exposure ∧
      recordAt pool' x = ⟨0, 0⟩ ∧ ∀ n, n ≠ st.opened → n ≠ x → recordAt pool' n = recordAt pool n := by
  have hsize : d.epochSize ≤ (recordAt (addCounts free pool st.opened errors exposure) st.opened).exposure := by
    rw [recordAt_addCounts_self (hlt _ (by simp))]
    exact h
  rw [observe, closeEpoch_close (st := { st with lifetime := satAdd48 st.lifetime exposure }) hsize hd hs] at hw
  obtain ⟨rfl, rfl⟩ := Prod.mk.inj hw
  exact ⟨rfl, rfl, rfl, recordAt_closing hnodup hlt (by simp [hs]) free errors exposure⟩

/-- R33, R34: with a full window the oldest closed epoch leaves it and becomes the open one, empty. -/
theorem observe_evict {x : Nat} {xs : List Nat} (hw : observe free d st errors exposure pool = (pool', st'))
    (hnodup : (st.closed ++ st.opened :: st.spares).Nodup)
    (hlt : ∀ n ∈ st.closed ++ st.opened :: st.spares, n < pool.length)
    (h : d.epochSize ≤ ((recordAt pool st.opened).add free st.opened errors exposure).exposure)
    (hd : d.depth ≤ st.closed.length) (hs : st.closed = x :: xs) :
    st'.closed = xs ++ [st.opened] ∧ st'.opened = x ∧ st'.spares = st.spares ∧
      recordAt pool' st.opened = (recordAt pool st.opened).add free st.opened errors exposure ∧
      recordAt pool' x = ⟨0, 0⟩ ∧ ∀ n, n ≠ st.opened → n ≠ x → recordAt pool' n = recordAt pool n := by
  have hsize : d.epochSize ≤ (recordAt (addCounts free pool st.opened errors exposure) st.opened).exposure := by
    rw [recordAt_addCounts_self (hlt _ (by simp))]
    exact h
  rw [observe, closeEpoch_evict (st := { st with lifetime := satAdd48 st.lifetime exposure }) hsize hd hs] at hw
  obtain ⟨rfl, rfl⟩ := Prod.mk.inj hw
  exact ⟨rfl, rfl, rfl, recordAt_closing hnodup hlt (by simp [hs]) free errors exposure⟩

/-! ### The entry after one item -/

/-- R36, R38 to R40, R72: the fields of a RATIO entry that one applied item changes. -/
theorem Entry.addObservation_eq (hw : observe free d st errors exposure pool = (pool', st')) (e : Entry) :
    e.addObservation free d st errors exposure pool = (pool', { e with
      data := .ratio d st'
      rawTotal := satAdd48 e.rawTotal errors
      saturated := e.saturated || decide (Config.max48 ≤ e.rawTotal + errors) ||
        decide (Config.max48 ≤ st.lifetime + exposure)
      score := ratioScoreOf d pool' st'
      worst := min e.worst (ratioScoreOf d pool' st')
      computed :=
        nextVerdict (!st.settled && st'.settled) e.cls (ratioScoreOf d pool' st') e.trip e.hyst e.computed }) := by
  obtain ⟨rfl, rfl⟩ := Prod.mk.inj hw
  simp only [← satAdd48_eq_max_iff]
  rfl

end

/-! ### The records that a RATIO entry names -/

/-- R41: a RATIO entry of a sound table names each of its records once, and only records of the pool. -/
theorem PoolSound.ratio_records {s : State} (hp : PoolSound s) {e : Entry} {d : RatioDef} {st : RatioState}
    (he : e ∈ s.table) (hdata : e.data = .ratio d st) :
    (st.closed ++ st.opened :: st.spares).Nodup ∧ ∀ n ∈ st.closed ++ st.opened :: st.spares, n < s.pool.length := by
  have hrec : e.records = st.closed ++ st.opened :: st.spares := by rw [Entry.records, hdata]
  obtain ⟨hlen, hnodup, hlt, _⟩ := hp
  rw [← hrec, hlen]
  exact ⟨records_nodup hnodup he, fun n hn => hlt n (mem_heldRecords.2 ⟨e, he, hn⟩)⟩

/-- R34: no record of a sound pool has more errors than exposure. -/
theorem PoolSound.errors_le {s : State} (hp : PoolSound s) {n : Nat} (hn : n < s.pool.length) :
    (recordAt s.pool n).errors ≤ (recordAt s.pool n).exposure := by
  obtain ⟨_, _, _, _, hcounts⟩ := hp
  rw [recordAt, List.getD_eq_getElem?_getD, List.getElem?_eq_getElem hn, Option.getD_some]
  exact (hcounts _ (List.getElem_mem hn)).1

/-- R30: a sound RATIO entry has room for at least one closed epoch, and a spare for each one still to come. -/
theorem Entry.Sound.ratio_depth {e : Entry} (h : e.Sound) {d : RatioDef} {st : RatioState} (hdata : e.data = .ratio d st) :
    1 ≤ d.depth ∧ st.closed.length + st.spares.length = d.depth := by
  have hd := h.data
  rw [hdata] at hd
  obtain ⟨_, _, _, ⟨hdepth, _⟩, _, hlen⟩ := hd
  exact ⟨hdepth, hlen⟩

/-! ### The tag of an item -/

theorem Entry.enterTag_some (tag : Nat) (e : Entry) :
    e.enterTag (some tag) = { e with tags := (if e.tags.length < 8 then e.tags else e.tags.tail) ++ [tag] } := by
  have h : Machine.enterTag tag e.tags = (if e.tags.length < 8 then e.tags else e.tags.tail) ++ [tag] := by
    rw [Machine.enterTag, Config.tagSize]
    by_cases hl : e.tags.length < 8
    · rw [if_neg (Nat.not_le.2 hl), if_pos hl]
    · rw [if_pos (Nat.not_lt.1 hl), if_neg hl]
  rw [← h]
  rfl

/-! ### A REPORT of one item -/

/-- R67: an item that fails no check is in the range of its entry's kind. -/
theorem Item.inRange_of_failure_none {i : Item} {table : List Entry} {p : Port} {e : Entry}
    (h : i.failure table p = none) (hf : findEntry table i.id = some e) : i.inRange e.kind = true := by
  rw [Item.failure, hf] at h
  dsimp only at h
  split at h
  · cases h
  · split at h
    · cases h
    · split at h
      · cases h
      · next hr => simpa using hr

/-- R68: a RATIO item in range has an exposure of at least 1 and no more errors than exposure. -/
theorem Item.inRange_ratio {i : Item} {kind : Kind} {errors exposure : Nat} (h : i.inRange kind = true)
    (hv : i.value = .ratio errors exposure) : 1 ≤ exposure ∧ errors ≤ exposure := by
  unfold Item.inRange at h
  rw [hv] at h
  cases kind with
  | ratio =>
    obtain ⟨-, hrange⟩ := Bool.and_eq_true_iff.1 h
    simpa using hrange
  | tally => simp at h
  | runtime => simp at h

theorem batchFailure_single {i : Item} {table : List Entry} {p : Port} (h : i.failure table p = none) :
    batchFailure table p 1 [i] = none := by
  rw [batchFailure, h]
  rfl

/-- R69: a RATIO item whose tag is new is applied. -/
theorem State.applyItem_ratio {s : State} {i : Item} {e after : Entry} {d : RatioDef} {st : RatioState}
    {errors exposure : Nat} {pool : List EpochRecord} (hfind : findEntry s.table i.id = some e)
    (hdata : e.data = .ratio d st) (hvalue : i.value = .ratio errors exposure) (htag : ∀ tag ∈ i.tag, tag ∉ e.tags)
    (hobs : (e.enterTag i.tag).addObservation s.freeIndex d st errors exposure s.pool = (pool, after)) :
    s.applyItem i = (State.replaceEntry { s with pool := pool } e after, true) := by
  have hnew : ¬ i.tag.any e.tags.contains = true := by
    cases ht : i.tag with
    | none => simp
    | some tag => simpa using htag tag ht
  rw [State.applyItem, hfind]
  simp only [if_neg hnew, hdata, hvalue, hobs]

/-- R69, R73: the service of a REPORT whose single item passes and is applied. -/
theorem State.serviceReport_applied {s t : State} {i : Item} {p : Port} (h : i.failure s.table p = none)
    (ha : s.applyItem i = (t, true)) :
    s.serviceReport p [i] = ((t.addChanges 1).refreshLines, .answer .ok [1, 0]) := by
  rw [State.serviceReport, batchFailure_single h]
  simp only [State.applyItems, ha]
  rfl

/-- R66, R69, R73: the grant of a REPORT whose single item is a RATIO item that passes and is applied. -/
theorem exec_report_ratio {s : State} {p : Port} {k : SlotNo} {r : Request} {i : Item} {e after : Entry} {d : RatioDef}
    {st : RatioState} {errors exposure : Nat} {pool : List EpochRecord} (hadm : Admitted s p .report k r)
    (hbody : bodyItems r.body = some [i]) (hpass : i.failure s.table p = none) (hfind : findEntry s.table i.id = some e)
    (hdata : e.data = .ratio d st) (hvalue : i.value = .ratio errors exposure) (htag : ∀ tag ∈ i.tag, tag ∉ e.tags)
    (hobs : (e.enterTag i.tag).addObservation s.freeIndex d st errors exposure s.pool = (pool, after)) :
    ∃ t, exec (.report p) s = .next t ∧ ReplacesEntry s t p k (r.reply .ok [1, 0]) e after 1 ∧ t.pool = pool := by
  have hold : findEntry s.table e.id = some e := (findEntry_id hfind).symm ▸ hfind
  have hid : after.id = e.id := by
    have h := Entry.addObservation_id s.freeIndex d st errors exposure s.pool (e.enterTag i.tag)
    rw [hobs, Entry.enterTag_id] at h
    exact h
  have happly := State.applyItem_ratio (s := s.beginService p k r) hfind hdata hvalue htag hobs
  have hserve := hadm.serve bodyItems (fun t _ items => t.serviceReport p items) hbody
  rw [State.serviceReport_applied (s := s.beginService p k r) hpass happly] at hserve
  exact ⟨_, congrArg Host.Outcome.next hserve, replacesEntry_of pool hold hid p k r .ok [1, 0], by simp⟩

/-- Settles O27: the frame of the grant is `replacesEntry_of`, the step of the window is `observe_open`, `observe_close` or
`observe_evict`, the changed fields of the entry are `Entry.addObservation_eq`. -/
theorem reportAppliesARatioItem : Obligations.ReportAppliesARatioItem := by
  refine ⟨fun _ _ => ⟨rfl, rfl⟩, ?_⟩
  intro s p k r i e rd st errors exposure hadm hbody hpass hfind hdata hvalue htag hentries hpool
  have he : e ∈ s.table := findEntry_mem hfind
  obtain ⟨hexp, herr⟩ := Item.inRange_ratio (Item.inRange_of_failure_none hpass hfind) hvalue
  obtain ⟨hnodup, hlt⟩ := hpool.ratio_records he hdata
  obtain ⟨hdepth, hrecords⟩ := Entry.Sound.ratio_depth (hentries e he) hdata
  have hopen : st.opened < s.pool.length := hlt _ (by simp)
  obtain ⟨hsumErr, hsumPos, hsumMax⟩ := EpochRecord.add_bounds (hpool.errors_le hopen) herr hexp s.freeIndex st.opened
  obtain ⟨⟨pool', st'⟩, hw⟩ : ∃ w, observe s.freeIndex rd st errors exposure s.pool = w := ⟨_, rfl⟩
  obtain ⟨t, hexec, hreplaces, rfl⟩ :=
    exec_report_ratio hadm hbody hpass hfind hdata hvalue htag (Entry.addObservation_eq hw _)
  refine ⟨t, _, st', _, hexec, hreplaces, fun h => EpochRecord.add_errors h _ _ _,
    fun h => EpochRecord.add_exposure h _ _ _, hsumErr, hsumPos, hsumMax, ⟨observe_open hw hopen, ?_, ?_⟩,
    observe_lifetime hw, observe_settled hw, ?_⟩
  · intro hsize hroom
    obtain ⟨x, xs, hs⟩ := List.exists_cons_of_length_pos (show 0 < st.spares.length by omega)
    exact ⟨x, xs, hs, observe_close hw hnodup hlt hsize hroom hs⟩
  · intro hsize hfull
    obtain ⟨x, xs, hs⟩ := List.exists_cons_of_length_pos (show 0 < st.closed.length by omega)
    exact ⟨x, xs, hs, observe_evict hw hnodup hlt hsize (Nat.le_of_eq hfull.symm) hs⟩
  · cases ht : i.tag with
    | none => rfl
    | some tag =>
      rw [Entry.enterTag_some]
      rfl

end Sys2Proof.Machine
end

section
/-!
SUPPORT. The computed verdict machine (R47 to R50), and the grants of CLEAR (R52) and OVERRIDE (R53, R54).
-/
namespace Sys2Proof.Machine

/-! ### The machine -/

@[simp] theorem Entry.evaluate_computed (b : Bool) (e : Entry) :
    (e.evaluate b).computed = nextVerdict b e.cls e.score e.trip e.hyst e.computed := rfl

theorem nextVerdict_tripped (b : Bool) (cls : IndicatorClass) (score trip hyst : Nat) :
    nextVerdict b cls score trip hyst .tripped =
      if releaseLevel trip hyst ≤ score then (if cls = .urgent then .held else .good) else .tripped := by
  cases cls <;> rfl

theorem releaseLevel_eq_ite (trip hyst : Nat) :
    releaseLevel trip hyst = if trip + hyst ≤ 200 then trip + hyst else 200 := by
  rw [releaseLevel, Nat.min_comm, Nat.min_def]

/-- R49: within the ranges of R3 the release level lies above the trip level. -/
theorem trip_lt_releaseLevel {trip hyst : Nat} (hh : 1 ≤ hyst) (ht : trip ≤ 199) : trip < releaseLevel trip hyst := by
  unfold releaseLevel
  omega

/-- R46: no verdict that an evaluation gives is left by a second one: GOOD and HELD are given above the trip level or
kept there, TRIPPED below the release level or at or below the trip level. -/
theorem nextVerdict_settles {trip hyst : Nat} (hlevel : trip < releaseLevel trip hyst) (b : Bool) (cls : IndicatorClass)
    (score : Nat) (v : Verdict) :
    nextVerdict false cls score trip hyst (nextVerdict b cls score trip hyst v) =
      nextVerdict b cls score trip hyst v := by
  have hrelease : score ≤ trip → ¬ releaseLevel trip hyst ≤ score := by omega
  have habove : releaseLevel trip hyst ≤ score → ¬ score ≤ trip := by omega
  cases v with
  | settling =>
    cases b with
    | false => rfl
    | true => by_cases h : score ≤ trip <;> simp [nextVerdict, h, hrelease]
  | good => by_cases h : score ≤ trip <;> simp [nextVerdict, h, hrelease]
  | tripped =>
    by_cases h : releaseLevel trip hyst ≤ score
    · cases cls <;> simp [nextVerdict, h, habove h]
    · simp [nextVerdict, h]
  | held => by_cases h : score ≤ trip <;> simp [nextVerdict, h, hrelease]

/-- Settles O20: the moves are the equations of `nextVerdict`, and `nextVerdict_settles` is the second evaluation. -/
theorem verdictMachineTransitions : Obligations.VerdictMachineTransitions := by
  intro settledNow e
  refine ⟨fun _ => rfl, fun h => ?_, fun h => ?_, fun h => ?_, fun h => ?_, fun hhyst htrip => ?_⟩
  · rw [Entry.evaluate_computed, h]
    rfl
  · rw [Entry.evaluate_computed, h]
    rfl
  · rw [Entry.evaluate_computed, h, nextVerdict_tripped, releaseLevel_eq_ite]
  · rw [Entry.evaluate_computed, h]
    rfl
  · have hsame := nextVerdict_settles (trip_lt_releaseLevel hhyst htrip) settledNow e.cls e.score e.computed
    exact congrArg (fun v => { e with computed := v }) hsame

/-! ### CLEAR -/

theorem Entry.clear_of_trip_lt {e : Entry} (h : e.trip < e.score) : e.clear = { e with computed := .good } := by
  have hgood : nextVerdict false e.cls e.score e.trip e.hyst .good = .good := if_neg (Nat.not_le.mpr h)
  exact congrArg (fun v => { e with computed := v }) hgood

theorem State.serviceClear_held {s : State} {id : Nat} {e : Entry} (hfind : findEntry s.table id = some e)
    (hv : e.computed = .held) :
    s.serviceClear id = (((s.replaceEntry e e.clear).addChanges 1).refreshLines, .answer .ok e.clear.clearBody) := by
  simp only [State.serviceClear, hfind, hv]

theorem State.serviceClear_tripped {s : State} {id : Nat} {e : Entry} (hfind : findEntry s.table id = some e)
    (hv : e.computed = .tripped) :
    s.serviceClear id = (s, .answer .conditionPresent (byteList [e.score, releaseLevel e.trip e.hyst])) := by
  simp only [State.serviceClear, hfind, hv]

theorem State.serviceClear_stays {s : State} {id : Nat} {e : Entry} (hfind : findEntry s.table id = some e)
    (hv : e.computed = .good ∨ e.computed = .settling) : s.serviceClear id = (s, .answer .ok e.clearBody) := by
  rcases hv with hv | hv <;> simp only [State.serviceClear, hfind, hv]

/-- R52: the grant of an admitted CLEAR is its service, answered in its slot. -/
theorem exec_clear {s : State} {p : Port} {k : SlotNo} {r : Request} {id : Nat} {x : State × Reply}
    (hadm : Admitted s p .clear k r) (hbody : bodyByte r.body = some id) (hx : (s.beginService p k r).serviceClear id = x) :
    exec (.clear p) s = .next (x.1.endService p k r x.2) :=
  congrArg Host.Outcome.next (hx ▸ hadm.serve bodyByte (fun t _ id => t.serviceClear id) hbody)

/-- Settles O21: one clause for each line of the service; the HELD entry is replaced as `replacesEntry_of` says. -/
theorem clearActsOnTheComputedVerdict : Obligations.ClearActsOnTheComputedVerdict := by
  intro s p k r id e hadm hbody hfind
  have hid : e.id = id := findEntry_id hfind
  subst hid
  have hfind' : findEntry (s.beginService p k r).table e.id = some e := hfind
  refine ⟨fun hheld hscore => ?_, fun htripped => ?_, fun hstays => ?_⟩
  · refine ⟨_, _, exec_clear hadm hbody (State.serviceClear_held hfind' hheld), rfl, ?_, by simp⟩
    rw [Entry.clear_of_trip_lt hscore]
    exact replacesEntry_of (after := { e with computed := .good }) s.pool hfind rfl p k r .ok _
  · refine ⟨_, exec_clear hadm hbody (State.serviceClear_tripped hfind' htripped), ?_⟩
    rw [releaseLevel, Nat.min_comm]
    exact answersOnly_of ..
  · exact ⟨_, exec_clear hadm hbody (State.serviceClear_stays hfind' hstays), answersOnly_of ..⟩

/-! ### OVERRIDE -/

theorem overrideOf_code (o : Override) : overrideOf o.code = some o := by cases o <;> rfl

theorem overrideOf_eq_none {v : Nat} (h : 3 ≤ v) : overrideOf v = none := by
  obtain ⟨n, rfl⟩ := Nat.exists_eq_add_of_le' h
  rfl

theorem State.serviceOverride_set {s : State} {id v : Nat} {e : Entry} {o : Override}
    (hfind : findEntry s.table id = some e) (ho : overrideOf v = some o) :
    s.serviceOverride id v =
      ((s.replaceEntry e (e.setOverride o)).refreshLines, .answer .ok (e.setOverride o).overrideBody) := by
  simp only [State.serviceOverride, hfind, ho]

theorem State.serviceOverride_outOfRange {s : State} {id v : Nat} {e : Entry} (hfind : findEntry s.table id = some e)
    (ho : overrideOf v = none) : s.serviceOverride id v = (s, .answer .outOfRange []) := by
  simp only [State.serviceOverride, hfind, ho]
  rfl

/-- R54: the grant of an admitted OVERRIDE is its service, answered in its slot. -/
theorem exec_override {s : State} {p : Port} {k : SlotNo} {r : Request} {id v : Nat} {x : State × Reply}
    (hadm : Admitted s p .override k r) (hbody : bodyTwoBytes r.body = some (id, v))
    (hx : (s.beginService p k r).serviceOverride id v = x) :
    exec (.override p) s = .next (x.1.endService p k r x.2) :=
  congrArg Host.Outcome.next (hx ▸ hadm.serve bodyTwoBytes (fun t _ x => t.serviceOverride x.1 x.2) hbody)

/-- A service that puts `after` in the place of `before` and refreshes the lines, but counts no change: it differs from
the one of `replacesEntry_of` in the snapshot unit alone. -/
theorem replacesEntry_uncounted {s : State} {before after : Entry} (hf : findEntry s.table before.id = some before)
    (hid : after.id = before.id) (p : Port) (k : SlotNo) (r : Request) (result : ResultCode) (body : List Byte) :
    ReplacesEntry s
      (((s.beginService p k r).replaceEntry before after).refreshLines.endService p k r (.answer result body)) p k
      (r.reply result body) before after 0 :=
  let counted := replacesEntry_of s.pool hf hid p k r result body
  { frame := { counted.frame with }
    entry := counted.entry
    others := counted.others
    length := counted.length
    lines := counted.lines
    lease := counted.lease
    snap := by
      show State.snap (State.modifyPort _ _ _) = _
      simp }

/-- Settles O22: an override value is set as `replacesEntry_uncounted` says, any other value is refused. -/
theorem overrideSetsThePublishedVerdict : Obligations.OverrideSetsThePublishedVerdict := by
  intro s p k r id v e hadm hbody hfind
  have hid : e.id = id := findEntry_id hfind
  subst hid
  have hfind' : findEntry (s.beginService p k r).table e.id = some e := hfind
  constructor
  · intro o hvo
    have hv : v = o.code := by rcases hvo with ⟨rfl, rfl⟩ | ⟨rfl, rfl⟩ | ⟨rfl, rfl⟩ <;> rfl
    subst hv
    exact ⟨_, e.setOverride o, exec_override hadm hbody (State.serviceOverride_set hfind' (overrideOf_code o)), rfl,
      by cases o <;> rfl, replacesEntry_uncounted (after := e.setOverride o) hfind rfl p k r .ok _, by simp⟩
  · intro hv
    exact ⟨_, exec_override hadm hbody (State.serviceOverride_outOfRange hfind' (overrideOf_eq_none hv)),
      answersOnly_of ..⟩

end Sys2Proof.Machine
end

section
/-!
SUPPORT. What keeps the summary lines true to the table (R60) and the lease unit sound (R55, R104, R105), by the kind of change:
one that lies aside of table, lines and lease, one that edits entries and then refreshes the lines, and the end of the lease.
-/
namespace Sys2Proof.Machine

/-! ### A table without overrides (R55) -/

/-- R55: every override is NONE. -/
def NoOverride (table : List Entry) : Prop := ∀ e ∈ table, e.override = .none

theorem noOverride_nil : NoOverride [] := fun _ h => nomatch h

theorem NoOverride.putEntry {table : List Entry} (h : NoOverride table) {e : Entry} (he : e.override = .none) :
    NoOverride (putEntry table e) := by
  intro x hx
  rcases mem_putEntry hx with rfl | hx
  · exact he
  · exact h x hx

theorem NoOverride.insertEntry {table : List Entry} (h : NoOverride table) {e : Entry} (he : e.override = .none) :
    NoOverride (insertEntry e table) := by
  intro x hx
  rcases mem_insertEntry.mp hx with rfl | hx
  · exact he
  · exact h x hx

theorem NoOverride.removeEntry {table : List Entry} (h : NoOverride table) (id : Nat) :
    NoOverride (removeEntry table id) :=
  fun x hx => h x (List.mem_filter.mp hx).1

theorem noOverride_dropOverride (table : List Entry) : NoOverride (table.map Entry.dropOverride) := by
  intro x hx
  obtain ⟨e, -, rfl⟩ := List.mem_map.mp hx
  rfl

theorem NoOverride.sortEntries {es : List Entry} (h : NoOverride es) : NoOverride (sortEntries es) := by
  induction es with
  | nil => exact noOverride_nil
  | cons e es ih => exact (ih fun x hx => h x (List.mem_cons_of_mem e hx)).insertEntry (h e (List.mem_cons_self ..))

/-! ### Entries of an image carry no override (R176) -/

theorem collect_mem {xs : List (Option α)} {ys : List α} (h : collect xs = some ys) : ∀ y ∈ ys, some y ∈ xs := by
  induction xs generalizing ys with
  | nil =>
    cases h
    exact fun _ hy => nomatch hy
  | cons x xs ih =>
    cases x with
    | none => cases h
    | some x =>
      obtain ⟨zs, hzs, rfl⟩ := Option.map_eq_some_iff.mp h
      intro y hy
      rcases List.mem_cons.mp hy with rfl | hy
      · exact List.mem_cons_self ..
      · exact List.mem_cons_of_mem _ (ih hzs y hy)

theorem recordEntry_override {body : List Byte} {k : Nat} {e : Entry} (h : recordEntry body k = some e) :
    e.override = .none := by
  simp only [recordEntry, Option.ite_none_left_eq_some, Option.bind_eq_bind, Option.bind_eq_some_iff,
    Option.ite_none_right_eq_some] at h
  obtain ⟨-, d, -, data, -, v, -, -, he⟩ := h
  cases he
  rfl

theorem loadImage_noOverride {i : Image} {x : List Entry × List EpochRecord} (h : loadImage i = some x) :
    NoOverride x.1 := by
  simp only [loadImage, Option.ite_none_right_eq_some] at h
  obtain ⟨-, h⟩ := h
  cases hc : collect ((usedRecords i.body).map (recordEntry i.body)) with
  | none => simp [hc] at h
  | some es =>
    simp only [hc, Option.ite_none_right_eq_some, Option.some.injEq] at h
    obtain ⟨-, rfl⟩ := h
    refine NoOverride.sortEntries fun e he => ?_
    obtain ⟨k, -, hk⟩ := List.mem_map.mp (collect_mem hc e he)
    exact recordEntry_override hk

/-! ### The lease unit while a lease is held (R105) -/

/-- R105: the remaining time lies in 1..duration, the duration in 1..255, and the prescaler counts one unit at most. -/
def Lease.Running (l : Lease) : Prop :=
  1 ≤ l.remaining ∧ l.remaining ≤ l.duration ∧ l.duration ≤ 255 ∧
    ∃ n, l.prescaler = some n ∧ n ≤ Config.leaseUnitPeriods

theorem leaseSound_unheld {s : State} (h : s.lease.holder = none) :
    LeaseSound s ↔ s.lease = .unheld ∧ NoOverride s.table := by
  unfold LeaseSound
  rw [h]
  rfl

theorem leaseSound_held {s : State} {p : Port} (h : s.lease.holder = some p) :
    LeaseSound s ↔ (s.ports.get p).attached = true ∧ s.lease.Running := by
  unfold LeaseSound
  rw [h]
  rfl

/-- R107: a claim starts the whole duration. -/
theorem Lease.claimed_running (p : Port) {duration : Nat} (hpos : 1 ≤ duration) (hmax : duration ≤ 255) :
    (Lease.claimed p duration).Running :=
  ⟨hpos, Nat.le_refl _, hmax, 0, rfl, Nat.zero_le _⟩

/-- R110: a refresh starts the whole duration again. -/
theorem Lease.Running.restart {l : Lease} (h : l.Running) : l.restart.Running := by
  obtain ⟨hpos, hle, hmax, -⟩ := h
  exact ⟨Nat.le_trans hpos hle, Nat.le_refl _, hmax, 0, rfl, Nat.zero_le _⟩

/-- R105: a unit that is not the last one leaves some time. -/
theorem Lease.Running.unit {l : Lease} (h : l.Running) (hlast : ¬ l.remaining ≤ 1) :
    Lease.Running { l with remaining := l.remaining - 1, prescaler := some 0 } := by
  obtain ⟨-, hle, hmax, -⟩ := h
  exact ⟨by simp only; omega, by simp only; omega, hmax, 0, rfl, Nat.zero_le _⟩

/-- R105: a prescaler that has not measured its unit counts on. -/
theorem Lease.Running.clock {l : Lease} (h : l.Running) (hheld : l.holder ≠ none) (hdue : l.due = false) :
    l.clock.Running := by
  obtain ⟨hpos, hle, hmax, n, hn, -⟩ := h
  have hlt : ¬ 3277 ≤ n := fun hge => by simp [(Lease.due_iff l).mpr ⟨hheld, n, hn, hge⟩] at hdue
  exact ⟨hpos, hle, hmax, n + 1, by simp [Lease.clock, hn], by simp only [Config.leaseUnitPeriods]; omega⟩

/-! ### Changes that edit entries, and changes aside of them -/

/-- Between `s` and `t` entries may have changed, but not the lease, its holder was not detached, and without a lease no
override was set. -/
structure EntriesEdited (s t : State) : Prop where
  lease : t.lease = s.lease
  attached : ∀ p, s.lease.holder = some p → (s.ports.get p).attached = true → (t.ports.get p).attached = true
  overrides : s.lease.holder = none → NoOverride s.table → NoOverride t.table

/-- Between `s` and `t` neither the table nor the lines nor the lease changed, and the holder was not detached. -/
structure Aside (s t : State) : Prop where
  table : t.table = s.table
  urg : t.urg = s.urg
  pln : t.pln = s.pln
  lease : t.lease = s.lease
  attached : ∀ p, s.lease.holder = some p → (s.ports.get p).attached = true → (t.ports.get p).attached = true

/-- Between `s` and `t` the lines stayed true to the table (R60) and the lease unit sound (R55, R104, R105). -/
structure Kept (s t : State) : Prop where
  lines : LinesFollow s → LinesFollow t
  lease : LeaseSound s → LeaseSound t

theorem Kept.refl (s : State) : Kept s s := ⟨id, id⟩

theorem Kept.trans {s t u : State} (h : Kept s t) (h' : Kept t u) : Kept s u := ⟨h'.lines ∘ h.lines, h'.lease ∘ h.lease⟩

theorem Aside.refl (s : State) : Aside s s := ⟨rfl, rfl, rfl, rfl, fun _ _ h => h⟩

theorem Aside.trans {s t u : State} (h : Aside s t) (h' : Aside t u) : Aside s u :=
  ⟨h'.table.trans h.table, h'.urg.trans h.urg, h'.pln.trans h.pln, h'.lease.trans h.lease,
    fun p hl hp => h'.attached p (h.lease.symm ▸ hl) (h.attached p hl hp)⟩

theorem Aside.edited {s t : State} (h : Aside s t) : EntriesEdited s t :=
  ⟨h.lease, h.attached, fun _ hn => h.table ▸ hn⟩

theorem EntriesEdited.trans {s t u : State} (h : EntriesEdited s t) (h' : EntriesEdited t u) : EntriesEdited s u :=
  ⟨h'.lease.trans h.lease, fun p hl hp => h'.attached p (h.lease.symm ▸ hl) (h.attached p hl hp),
    fun hl hn => h'.overrides (h.lease.symm ▸ hl) (h.overrides hl hn)⟩

theorem EntriesEdited.leaseSound {s t : State} (h : EntriesEdited s t) (hs : LeaseSound s) : LeaseSound t := by
  cases hh : s.lease.holder with
  | none =>
    obtain ⟨hrest, hnone⟩ := (leaseSound_unheld hh).mp hs
    exact (leaseSound_unheld (h.lease ▸ hh)).mpr ⟨h.lease.trans hrest, h.overrides hh hnone⟩
  | some p =>
    obtain ⟨hatt, hrun⟩ := (leaseSound_held hh).mp hs
    exact (leaseSound_held (h.lease ▸ hh)).mpr ⟨h.attached p hh hatt, h.lease ▸ hrun⟩

/-- R11, R60: entries are edited, and the lines are evaluated after that. -/
theorem EntriesEdited.refreshed {s t : State} (h : EntriesEdited s t) : Kept s t.refreshLines :=
  ⟨fun _ => linesFollow_refresh t, EntriesEdited.leaseSound ⟨h.lease, h.attached, h.overrides⟩⟩

theorem linesFollow_of_eq {s t : State} (htable : t.table = s.table) (hurg : t.urg = s.urg) (hpln : t.pln = s.pln)
    (h : LinesFollow s) : LinesFollow t := by
  obtain ⟨hu, hp⟩ := h
  exact ⟨by rw [hurg, htable, hu], by rw [hpln, htable, hp]⟩

theorem Aside.kept {s t : State} (h : Aside s t) : Kept s t :=
  ⟨linesFollow_of_eq h.table h.urg h.pln, h.edited.leaseSound⟩

/-! ### The shared operations aside of table, lines and lease -/

/-- An update of none of the five. -/
theorem aside_of_update {s t : State}
    (h : t = { t with table := s.table, urg := s.urg, pln := s.pln, lease := s.lease, ports := s.ports }) : Aside s t := by
  rw [h]
  exact ⟨rfl, rfl, rfl, rfl, fun _ _ h => h⟩

theorem aside_modifyPort (s : State) (p : Port) (f : PortState → PortState)
    (hf : s.lease.holder = some p → (s.ports.get p).attached = true → (f (s.ports.get p)).attached = true) :
    Aside s (s.modifyPort p f) := by
  refine ⟨rfl, rfl, rfl, rfl, fun q hh hq => ?_⟩
  rw [State.modifyPort_get]
  split
  · next h => exact hf (h ▸ hh) (h ▸ hq)
  · exact hq

theorem aside_notifyAttached (s : State) (f : NoticeUnit → NoticeUnit) : Aside s (s.notifyAttached f) :=
  ⟨rfl, rfl, rfl, rfl, fun p _ hp => by rw [State.notifyAttached_get]; exact hp⟩

theorem aside_systemEvent (s : State) (ev : SystemEvent) : Aside s (s.systemEvent ev) := aside_notifyAttached s _

theorem aside_publish (s : State) (before after : Entry) : Aside s (s.publish before after) := by
  unfold State.publish
  split
  · exact .refl s
  · exact aside_notifyAttached s _

theorem aside_addChanges (s : State) (n : Nat) : Aside s (s.addChanges n) := aside_of_update rfl

theorem aside_handOp (s : State) (op : FlashOp) (bank : Bank) (c : Client) : Aside s (s.handOp op bank c) :=
  aside_of_update rfl

theorem aside_beginService (s : State) (p : Port) (k : SlotNo) (r : Request) : Aside s (s.beginService p k r) :=
  ⟨rfl, rfl, rfl, rfl, fun q _ hq => (State.beginService_attached s p q k r).trans hq⟩

theorem aside_endService (s : State) (p : Port) (k : SlotNo) (r : Request) (reply : Reply) :
    Aside s (s.endService p k r reply) := by
  cases reply with
  | answer result body => exact aside_modifyPort s p (fun ps => ps.answerSlot k ⟨r.tag, r.code, result, body⟩) fun _ h => h
  | wait binding =>
    exact (aside_modifyPort s p (fun ps => { ps with slots := ps.slots.set k (.waiting r) }) fun _ h => h).trans
      (aside_of_update rfl)

/-! ### Edits of entries -/

theorem EntriesEdited.replaceEntry {s t : State} (h : EntriesEdited s t) (before : Entry) {after : Entry}
    (ho : s.lease.holder = none → NoOverride s.table → after.override = .none) :
    EntriesEdited s (t.replaceEntry before after) := by
  have hput : EntriesEdited s { t with table := putEntry t.table after } :=
    ⟨h.lease, h.attached, fun hl hn => (h.overrides hl hn).putEntry (ho hl hn)⟩
  exact hput.trans (aside_publish _ before after).edited

/-- R11: a service edits entries, counts its changes and refreshes the lines. -/
theorem EntriesEdited.counted {s t : State} (h : EntriesEdited s t) (n : Nat) : Kept s ((t.addChanges n).refreshLines) :=
  (h.trans (aside_addChanges t n).edited).refreshed

/-- R11: an entry that the table holds is replaced by one with the same override. -/
theorem kept_replaceEntry (s : State) (pool : List EpochRecord) {before after : Entry} (hmem : before ∈ s.table)
    (ho : after.override = before.override) (n : Nat) :
    Kept s (((State.replaceEntry { s with pool := pool } before after).addChanges n).refreshLines) :=
  ((aside_of_update rfl : Aside s { s with pool := pool }).edited.replaceEntry before
    fun _ hn => ho.trans (hn before hmem)).counted n

/-! ### The end of the lease (R113) -/

/-- R56, R113: the end of a lease that is held leaves the lines evaluated, no override and the lease unit at rest. -/
theorem endLease_settled {s : State} {p : Port} (hh : s.lease.holder = some p) (reason : LeaseEndReason) :
    LinesFollow (s.endLease reason) ∧ LeaseSound (s.endLease reason) := by
  rw [State.endLease_eq s reason hh]
  exact ⟨⟨rfl, rfl⟩, (leaseSound_unheld rfl).mpr ⟨rfl, noOverride_dropOverride s.table⟩⟩

theorem kept_of_settled {s t : State} (h : LinesFollow t ∧ LeaseSound t) : Kept s t := ⟨fun _ => h.1, fun _ => h.2⟩

theorem kept_endLease (s : State) (reason : LeaseEndReason) : Kept s (s.endLease reason) := by
  cases hh : s.lease.holder with
  | none =>
    rw [State.endLease_none s reason hh]
    exact .refl s
  | some p => exact kept_of_settled (endLease_settled hh reason)

/-- R114, R133: a port reset ends the lease of its port, and leaves the port of another holder attached. -/
theorem kept_resetPort (s : State) (p : Port) (spared : Option SlotNo) : Kept s (s.resetPort p spared) := by
  unfold State.resetPort
  dsimp only
  split
  · next hh => exact kept_of_settled (endLease_settled (by exact hh) .portReset)
  · next hh =>
    exact ((aside_modifyPort s p (fun ps => ps.resetExcept spared) fun hp => absurd hp hh).trans (aside_of_update rfl)).kept

end Sys2Proof.Machine
end

section
/-!
SUPPORT. Every command keeps the summary lines true to the table and the lease unit sound.
-/
namespace Sys2Proof.Machine

/-! ### Grants -/

/-- R13: a request whose service begins is one of an attached port, unless its row of R14 exempts it. -/
theorem State.attached_of_passes {s : State} {p : Port} {c : RequestCode} (h : s.checkFailure p c true = none)
    (hc : (requestRow c).exemptAttached = false) : (s.ports.get p).attached = true := by
  cases hatt : (s.ports.get p).attached with
  | true => rfl
  | false =>
    rw [State.checkFailure, if_pos (by rw [hc, hatt]; rfl)] at h
    cases h

/-- R13: a request held to the lease whose service begins is one of the holder. -/
theorem State.holder_of_passes {s : State} {p : Port} {c : RequestCode} (h : s.checkFailure p c true = none)
    (hc : (requestRow c).heldToLease = true) : s.lease.holder = some p := by
  by_cases hh : s.lease.holder = some p
  · exact hh
  · unfold State.checkFailure at h
    split at h
    · cases h
    · rw [if_neg (by decide), if_pos (by rw [hc, decide_eq_true hh]; rfl)] at h
      cases h

/-- R10, R11: a grant keeps what the request's own service keeps. -/
theorem kept_serve (s : State) (p : Port) (c : RequestCode) (decode : List Byte → Option α)
    (service : State → SlotNo → α → State × Reply)
    (h : ∀ t k x body, t.checkFailure p c true = none → decode body = some x → Kept t (service t k x).1) :
    Kept s (s.serve p c decode service) := by
  rcases State.serve_cases s p c decode service with heq | ⟨k, r, -, ⟨reply, -, heq⟩ | ⟨x, hx, hpass, heq⟩⟩
  · rw [heq]
    exact .refl s
  · rw [heq]
    exact ((aside_beginService s p k r).trans (aside_endService _ p k r reply)).kept
  · rw [heq]
    exact (aside_beginService s p k r).kept.trans ((h _ k x r.body hpass hx).trans (aside_endService _ p k r _).kept)

theorem kept_unknownRequest (s : State) (p : Port) (reply : State → Reply) :
    Kept s (s.grantRequest p none fun t _ _ => (t, reply t)) := by
  unfold State.grantRequest
  split
  · next q k r _ =>
    split
    · exact ((aside_beginService s p k r).trans (aside_endService _ p k r _)).kept
    · exact .refl s
  · exact .refl s
  · exact .refl s
  · exact .refl s

/-! ### Requests on the table (chapters 1 and 3) -/

theorem kept_serviceDefine (id : Nat) (f : Fields) (s : State) : Kept s (s.serviceDefine id f).1 := by
  unfold State.serviceDefine
  split
  · exact .refl s
  · next d _ =>
    split
    · exact .refl s
    · split
      · exact .refl s
      · split
        · exact .refl s
        · have hinsert : EntriesEdited s { s with table := insertEntry ((newEntry s.table id d).evaluate false) s.table } :=
            ⟨rfl, fun _ _ hp => hp, fun _ hn => hn.insertEntry rfl⟩
          exact (hinsert.trans (aside_publish _ _ _).edited).counted 1

theorem kept_serviceAmend (id : Nat) (f : Fields) (s : State) : Kept s (s.serviceAmend id f).1 := by
  unfold State.serviceAmend
  split
  · exact .refl s
  · next e hfind =>
    split
    · exact .refl s
    · split
      · exact .refl s
      · split
        · exact kept_replaceEntry s s.pool (findEntry_mem hfind) (Entry.amend_override f e) 1
        · exact .refl s

theorem kept_serviceRetire (id : Nat) (s : State) : Kept s (s.serviceRetire id).1 := by
  unfold State.serviceRetire
  split
  · exact .refl s
  · next e _ =>
    have hremove : EntriesEdited s
        (State.retirementEvent { s with table := removeEntry s.table id, pool := clearRecords s.pool e.records } id e.score) :=
      ⟨rfl, fun p _ hp => by rw [State.retirementEvent_get]; exact hp, fun _ hn => hn.removeEntry id⟩
    exact hremove.counted 1

theorem kept_serviceRenew (id : Nat) (s : State) : Kept s (s.serviceRenew id).1 := by
  unfold State.serviceRenew
  split
  · exact .refl s
  · next e hfind => exact kept_replaceEntry (after := e.renew) s (clearRecords s.pool e.records) (findEntry_mem hfind) rfl 1

theorem kept_serviceDescribe (id : Nat) (s : State) : Kept s (s.serviceDescribe id).1 := by
  unfold State.serviceDescribe
  split <;> exact .refl s

theorem kept_serviceClear (id : Nat) (s : State) : Kept s (s.serviceClear id).1 := by
  unfold State.serviceClear
  split
  · exact .refl s
  · next e hfind =>
    split
    · exact kept_replaceEntry (after := e.clear) s s.pool (findEntry_mem hfind) rfl 1
    · exact .refl s
    · exact .refl s
    · exact .refl s

/-- R55: an override is set while a lease is held. -/
theorem kept_serviceOverride {s : State} {p : Port} (hh : s.lease.holder = some p) (id value : Nat) :
    Kept s (s.serviceOverride id value).1 := by
  unfold State.serviceOverride
  split
  · exact .refl s
  · exact .refl s
  · exact ((Aside.refl s).edited.replaceEntry _ fun hnone => by simp [hh] at hnone).refreshed

/-! ### REPORT and the accrual job (chapter 4) -/

theorem applyItem_edits (s : State) (i : Item) : EntriesEdited s (s.applyItem i).1 := by
  unfold State.applyItem
  split
  · exact (Aside.refl s).edited
  · next e hfind =>
    have hsame : NoOverride s.table → e.override = .none := fun hn => hn e (findEntry_mem hfind)
    split
    · exact (Aside.refl s).edited
    · split
      · exact (Aside.refl s).edited.replaceEntry e fun _ hn => by
          rw [Entry.addUnits_override, Entry.enterTag_override, hsame hn]
      · refine EntriesEdited.replaceEntry (aside_of_update rfl).edited e fun _ hn => ?_
        rw [Entry.addObservation_override, Entry.enterTag_override, hsame hn]
      · exact (Aside.refl s).edited
      · exact (Aside.refl s).edited
      · exact (Aside.refl s).edited

theorem applyItems_edits (s : State) (items : List Item) : EntriesEdited s (s.applyItems items).1 := by
  induction items generalizing s with
  | nil => exact (Aside.refl s).edited
  | cons i is ih => exact (applyItem_edits s i).trans (ih _)

theorem kept_serviceReport (p : Port) (items : List Item) (s : State) : Kept s (s.serviceReport p items).1 := by
  unfold State.serviceReport
  split
  · exact .refl s
  · exact (applyItems_edits s items).counted _

/-- R78: the visits of a job edit entries; each visited entry is one of the table before the job. -/
theorem visits_edit (s : State) (a : Accrual) : EntriesEdited s (s.table.foldl (State.visit a) s) := by
  refine List.foldlRecOn s.table (State.visit a) (motive := EntriesEdited s) (Aside.refl s).edited fun t ht e he => ?_
  unfold State.visit
  split
  · exact ht
  · exact ht.replaceEntry e fun _ hn => (Entry.accrue_override a e).trans (hn e he)

theorem kept_accrueAll (s : State) : Kept s s.accrueAll :=
  ((visits_edit s s.accrual).trans (aside_of_update rfl).edited).counted _

theorem kept_accrualJob (s : State) : ∀ t, execAccrualJob s = .next t → Kept s t := by
  rintro _ ⟨⟩
  split
  · have haside : Aside s { s with accrual := { s.accrual with candidate := false } } := aside_of_update rfl
    dsimp only
    split
    · exact haside.kept.trans (kept_accrueAll _)
    · exact (aside_of_update rfl).kept
    · exact haside.kept
  · exact .refl s
  · exact .refl s
  · exact .refl s

/-! ### Requests on ports, notices, lease and snapshots (chapters 5 to 8) -/

theorem kept_serviceAttach (p : Port) (s : State) : Kept s (s.serviceAttach p).1 :=
  (aside_modifyPort s p (fun ps => { ps with attached := true }) fun _ _ => rfl).kept

theorem aside_modifyNotices (s : State) (p : Port) (f : NoticeUnit → NoticeUnit) : Aside s (s.modifyNotices p f) :=
  aside_modifyPort s p _ fun _ h => h

theorem kept_serviceWatch (p : Port) (id : Nat) (s : State) : Kept s (s.serviceWatch p id).1 := by
  unfold State.serviceWatch
  dsimp only
  split
  · exact .refl s
  · split
    · exact .refl s
    · split
      · exact .refl s
      · exact (aside_modifyNotices s p fun n => { n with watch := insertId id n.watch }).kept

theorem kept_serviceAck (p : Port) (seq : Nat) (s : State) : Kept s (s.serviceAck p seq).1 := by
  unfold State.serviceAck
  dsimp only
  split
  · exact .refl s
  · next i _ => exact (aside_modifyNotices s p fun n => { n with queue := n.queue.drop (i + 1) }).kept

theorem bodyByte_le {body : List Byte} {n : Nat} (h : bodyByte body = some n) : n ≤ 255 := by
  unfold bodyByte at h
  split at h
  · next b =>
    cases h
    exact Nat.le_of_lt_succ b.isLt
  · cases h

/-- R105, R107: another lease takes the place of one that is held or of none, for an attached port. -/
theorem leaseSound_of_running {s : State} {l : Lease} {p : Port} (hl : l.holder = some p)
    (hatt : (s.ports.get p).attached = true) (hrun : l.Running) : LeaseSound { s with lease := l } :=
  (leaseSound_held hl).mpr ⟨hatt, hrun⟩

theorem kept_serviceClaim {s : State} {p : Port} (hatt : (s.ports.get p).attached = true) {duration : Nat}
    (hmax : duration ≤ 255) : Kept s (s.serviceClaim p duration).1 := by
  unfold State.serviceClaim
  split
  · exact .refl s
  · next hpos =>
    split
    · exact ⟨linesFollow_of_eq rfl rfl rfl, fun _ =>
        leaseSound_of_running rfl hatt (Lease.claimed_running p (Nat.pos_of_ne_zero hpos) hmax)⟩
    · exact .refl s

theorem kept_serviceRelease (p : Port) (s : State) : Kept s (s.serviceRelease p).1 := by
  unfold State.serviceRelease
  split
  · exact kept_endLease s .released
  · exact .refl s

theorem kept_serviceSave (s : State) : Kept s s.serviceSave.1 := by
  unfold State.serviceSave
  split
  · split
    · exact .refl s
    · exact (aside_of_update rfl).kept
  · exact .refl s
  · split
    · exact .refl s
    · exact (aside_of_update rfl).kept
  · split
    · exact .refl s
    · exact (aside_of_update rfl).kept

theorem kept_serviceSettings (interval : Nat) (s : State) : Kept s (s.serviceSettings interval).1 := by
  unfold State.serviceSettings
  split
  · exact .refl s
  · exact (aside_of_update rfl).kept

/-! ### The lease unit's own events and the refresh (R105, R110, R111) -/

/-- R110: the holder's frame starts the duration again. -/
theorem kept_refreshLease (s : State) (p : Port) : Kept s (s.refreshLease p) := by
  unfold State.refreshLease
  split
  · next hh =>
    refine ⟨linesFollow_of_eq rfl rfl rfl, fun hs => ?_⟩
    obtain ⟨hatt, hrun⟩ := (leaseSound_held hh).mp hs
    exact leaseSound_of_running hh hatt hrun.restart
  · exact .refl s

theorem kept_leaseUnitComplete (s : State) : ∀ t, execLeaseUnitComplete s = .next t → Kept s t := by
  rintro _ ⟨⟩
  split
  · exact .refl s
  · next hheld =>
    split
    · exact kept_endLease s .expired
    · next hlast =>
      obtain ⟨p, hh⟩ := Option.ne_none_iff_exists'.mp hheld
      refine ⟨linesFollow_of_eq rfl rfl rfl, fun hs => ?_⟩
      obtain ⟨hatt, hrun⟩ := (leaseSound_held hh).mp hs
      exact leaseSound_of_running hh hatt (hrun.unit hlast)

theorem kept_leaseExpiry (s : State) : ∀ t, execLeaseExpiry s = .next t → Kept s t := by
  rintro _ ⟨⟩
  split
  · exact kept_endLease s .expired
  · exact .refl s

/-! ### REFCLK (log entry 5) -/

/-- R105: time passes for a prescaler that has not measured its unit, and not at all for a stopped one. -/
theorem leaseSound_clock {s : State} (hdue : s.lease.due = false) (hs : LeaseSound s) : LeaseSound s.clock := by
  cases hh : s.lease.holder with
  | none =>
    obtain ⟨hrest, hnone⟩ := (leaseSound_unheld hh).mp hs
    have hstill : s.clock.lease = .unheld := (congrArg Lease.clock hrest).trans rfl
    exact (leaseSound_unheld (s := s.clock) hh).mpr ⟨hstill, hnone⟩
  | some p =>
    obtain ⟨hatt, hrun⟩ := (leaseSound_held hh).mp hs
    exact (leaseSound_held (s := s.clock) hh).mpr ⟨hatt, hrun.clock (by simp [hh]) hdue⟩

theorem kept_refclk (s : State) : Kept s s.refclk := by
  cases hr : s.pins.resetN with
  | true =>
    rw [State.refclk_held hr]
    exact .refl s
  | false =>
    by_cases hnone : s.dueEvents = []
    · rw [State.refclk_period hr hnone]
      refine ⟨linesFollow_of_eq rfl rfl rfl, leaseSound_clock ?_⟩
      cases hdue : s.lease.due with
      | false => rfl
      | true =>
        have hmem : s.lease.unitEvent ∈ s.dueEvents := State.mem_dueEvents.mpr (.inr (.inl ⟨hdue, rfl⟩))
        rw [hnone] at hmem
        cases hmem
    · obtain ⟨c, -, heq⟩ := State.refclk_event hr hnone
      rw [heq]
      exact (aside_of_update rfl).kept

/-! ### Snapshots (chapter 8) -/

theorem aside_answerSave (result : ResultCode) (body : List Byte) (s : State) (w : WaitingSave) :
    Aside s (State.answerSave result body s w) := by
  refine aside_modifyPort s w.port _ fun _ h => ?_
  split <;> exact h

theorem aside_answerSaves (s : State) (result : ResultCode) (body : List Byte) : Aside s (s.answerSaves result body) := by
  have hall : Aside s (s.snap.due.foldl (State.answerSave result body) s) :=
    List.foldlRecOn s.snap.due _ (motive := Aside s) (.refl s) fun t ht w _ => ht.trans (aside_answerSave result body t w)
  exact hall.trans (aside_of_update rfl)

theorem aside_endSnapshot (s : State) : Aside s s.endSnapshot := aside_of_update rfl

theorem aside_snapshotSuccess (s : State) (image : Image) : Aside s (s.snapshotSuccess image) := by
  refine .trans ?_ ((aside_answerSaves _ _ _).trans (aside_endSnapshot _))
  exact aside_of_update rfl

theorem aside_snapshotFailure (s : State) : Aside s s.snapshotFailure :=
  (aside_addChanges s _).trans ((aside_answerSaves _ _ _).trans ((aside_systemEvent _ _).trans (aside_endSnapshot _)))

theorem aside_attemptFailure (s : State) : Aside s s.attemptFailure := by
  unfold State.attemptFailure
  split
  · exact aside_of_update rfl
  · exact aside_snapshotFailure s

theorem aside_writeCompleted (s : State) (op : FlashOp) : Aside s (s.writeCompleted op) := by
  cases op with
  | erase k =>
    unfold State.writeCompleted
    dsimp only
    split
    · exact aside_handOp ..
    · exact aside_handOp ..
  | program n =>
    unfold State.writeCompleted
    dsimp only
    split
    · exact aside_of_update rfl
    · split
      · exact aside_handOp ..
      · exact aside_handOp ..
  | read n => exact .refl s

theorem aside_verifyPage (s : State) (n : Nat) (data : List Byte) : Aside s (s.verifyPage n data) := by
  unfold State.verifyPage
  split
  · exact aside_attemptFailure s
  · split
    · exact aside_attemptFailure s
    · split
      · split
        · exact aside_snapshotSuccess s _
        · exact aside_attemptFailure s
      · split
        · exact aside_handOp ..
        · exact aside_handOp ..

theorem kept_captureJob (s : State) : ∀ t, execCaptureJob s = .next t → Kept s t := by
  rintro _ ⟨⟩
  split
  · exact (aside_of_update rfl).kept
  · exact .refl s
  · exact .refl s
  · exact .refl s

theorem kept_autosaveExpiry (s : State) : ∀ t, execAutosaveExpiry s = .next t → Kept s t := by
  rintro _ ⟨⟩
  split
  · exact (aside_of_update rfl).kept
  · exact .refl s

theorem kept_pfwAssert (s : State) : ∀ t, execPfwAssert s = .next t → Kept s t := by
  rintro _ ⟨⟩
  have hlevel : Aside s { s with pins := { s.pins with pfwN := true } } := aside_of_update rfl
  split
  · have hphase : Aside s { s with pins := { s.pins with pfwN := true }, phase := .frozen } :=
      aside_of_update rfl
    exact (hphase.trans ((aside_systemEvent _ .frozenEntered).trans (aside_of_update rfl))).kept
  · exact hlevel.kept
  · exact hlevel.kept

theorem kept_pfwDeassert (s : State) : ∀ t, execPfwDeassert s = .next t → Kept s t := by
  rintro _ ⟨⟩
  have hlevel : Aside s { s with pins := { s.pins with pfwN := false } } := aside_of_update rfl
  split
  · have hphase : Aside s { s with pins := { s.pins with pfwN := false }, phase := .running } :=
      aside_of_update rfl
    exact (hphase.trans ((aside_systemEvent _ .frozenLeft).trans (aside_of_update rfl))).kept
  · exact hlevel.kept
  · exact hlevel.kept

theorem kept_secondTick (run : Bool) (s : State) : ∀ t, execSecondTick run s = .next t → Kept s t := by
  rintro _ ⟨⟩
  split
  · exact .refl s
  · split <;> exact (aside_of_update rfl).kept

/-! ### Start-up (chapter 10) -/

/-- R176: start-up ends with the lines evaluated and a table without overrides. -/
theorem kept_endStartup (s : State) {table : List Entry} (hn : NoOverride table) (pool : List EpochRecord)
    (proved : Option Bank) (generation interval : Nat) : Kept s (s.endStartup table pool proved generation interval) :=
  ⟨fun _ => ⟨rfl, rfl⟩, EntriesEdited.leaseSound ⟨rfl, fun _ _ h => h, fun _ _ => hn⟩⟩

theorem kept_tryNext (s : State) : Kept s s.tryNext := by
  unfold State.tryNext
  split
  · exact kept_endStartup s noOverride_nil _ _ _ _
  · exact (aside_of_update rfl).kept

theorem kept_bankFailed (s : State) : Kept s s.bankFailed := by
  refine .trans ?_ (kept_tryNext _)
  exact (aside_of_update rfl).kept

theorem kept_headerBDone (s : State) (v : HeaderVerdict) (copy : Option (List Byte)) : Kept s (s.headerBDone v copy) := by
  refine .trans ?_ (kept_tryNext _)
  exact (aside_of_update rfl).kept

theorem kept_headerADone (s : State) (v : HeaderVerdict) (copy : Option (List Byte)) : Kept s (s.headerADone v copy) :=
  (aside_of_update rfl).kept

theorem kept_judgeBank (s : State) (image : Image) (sum : Nat) : Kept s (s.judgeBank image sum) := by
  unfold State.judgeBank
  split
  · split
    · next x hx => exact kept_endStartup s (loadImage_noOverride hx) _ _ _ _
    · exact kept_bankFailed s
  · exact kept_bankFailed s

theorem kept_bodyPageRead (s : State) (n : Nat) (data : List Byte) : Kept s (s.bodyPageRead n data) := by
  unfold State.bodyPageRead
  dsimp only
  split
  · exact (aside_of_update rfl).kept
  · refine .trans ?_ (kept_judgeBank _ _ _)
    exact (aside_of_update rfl).kept

theorem kept_startupPage (s : State) (n : Nat) (data : List Byte) : Kept s (s.startupPage n data) := by
  unfold State.startupPage
  split
  · exact kept_headerADone ..
  · exact kept_headerBDone ..
  · exact kept_bodyPageRead ..
  · exact .refl s

theorem kept_startupFailure (s : State) : Kept s s.startupFailure := by
  unfold State.startupFailure
  split
  · exact kept_headerADone ..
  · exact kept_headerBDone ..
  · exact kept_bankFailed s
  · exact .refl s

/-- R169: the device reset leaves an empty table, both lines deasserted and no lease. -/
theorem kept_deviceReset (s : State) : ∀ t, execDeviceReset s = .next t → Kept s t := by
  rintro _ ⟨⟩
  exact kept_of_settled ⟨⟨rfl, rfl⟩, (leaseSound_unheld rfl).mpr ⟨rfl, noOverride_nil⟩⟩

theorem kept_resetDeassert (s : State) : ∀ t, execResetDeassert s = .next t → Kept s t := by
  rintro _ ⟨⟩
  split
  · exact (aside_of_update rfl).kept
  · exact .refl s

/-! ### The memory link (chapter 9) -/

theorem kept_readDone (s : State) (o : LinkOp) (n : Nat) (data : List Byte) : Kept s (s.readDone o n data) := by
  have hidle : Kept s s.linkIdle := (aside_of_update rfl).kept
  unfold State.readDone
  split
  · exact hidle.trans (aside_verifyPage _ n data).kept
  · exact hidle.trans (kept_startupPage _ n data)

theorem kept_opFailed (s : State) (o : LinkOp) : Kept s (s.opFailed o) := by
  have hidle : Kept s s.linkIdle := (aside_of_update rfl).kept
  unfold State.opFailed
  split
  · exact hidle.trans (aside_attemptFailure _).kept
  · exact hidle.trans (kept_startupFailure _)

theorem kept_statusRead (status : Byte) (s : State) : ∀ t, execStatusRead status s = .next t → Kept s t := by
  rintro _ ⟨⟩
  have hsent : Aside s (s.sent [cmdStatus]) := aside_of_update rfl
  split
  · dsimp only
    split
    · exact hsent.kept
    · exact (aside_of_update rfl).kept
  · dsimp only
    split
    · exact hsent.kept
    · exact (hsent.trans ((aside_of_update rfl).trans (aside_writeCompleted (State.linkIdle _) _))).kept
  all_goals exact .refl s

theorem kept_writeEnable (s : State) : ∀ t, execWriteEnable s = .next t → Kept s t := by
  rintro _ ⟨⟩
  split
  · split
    · exact .refl s
    · exact (aside_of_update rfl).kept
  · split
    · exact .refl s
    · exact (aside_of_update rfl).kept
  all_goals exact .refl s

theorem kept_sectorErase (s : State) : ∀ t, execSectorEraseTransaction s = .next t → Kept s t := by
  rintro _ ⟨⟩
  split
  · split
    · exact (aside_of_update rfl).kept
    · exact .refl s
  all_goals exact .refl s

theorem kept_pageProgram (s : State) : ∀ t, execPageProgramTransaction s = .next t → Kept s t := by
  rintro _ ⟨⟩
  split
  · split
    · exact (aside_of_update rfl).kept
    · exact .refl s
  all_goals exact .refl s

theorem kept_pageRead (data : List Byte) (s : State) : ∀ t, execPageRead data s = .next t → Kept s t := by
  rintro _ ⟨⟩
  split
  · split
    · refine .trans ?_ (kept_readDone _ _ _ data)
      exact (aside_of_update rfl).kept
    all_goals exact .refl s
  · exact .refl s

theorem kept_readyWaitTimeout (s : State) : ∀ t, execReadyWaitTimeout s = .next t → Kept s t := by
  rintro _ ⟨⟩
  split
  · exact kept_opFailed s _
  all_goals exact .refl s

theorem kept_busyWaitTimeout (s : State) : ∀ t, execBusyWaitTimeout s = .next t → Kept s t := by
  rintro _ ⟨⟩
  split
  · exact kept_opFailed s _
  all_goals exact .refl s

/-! ### Ports (chapter 7) -/

theorem kept_arrive (s : State) (p : Port) (r : Request) : Kept s (s.arrive p r) := by
  unfold State.arrive
  split
  · exact (aside_modifyPort s p _ fun _ h => h).kept
  · split
    · exact (aside_modifyPort s p _ fun _ h => h).kept
    · exact (aside_modifyPort s p _ fun _ h => h).kept.trans (kept_refreshLease _ p)

theorem aside_countBadFrame (s : State) (p : Port) : Aside s (s.countBadFrame p) :=
  aside_modifyPort s p _ fun _ h => h

theorem kept_frameArrival (p : Port) (bytes : List Byte) (s : State) :
    ∀ t, execFrameArrival p bytes s = .next t → Kept s t := by
  rintro _ ⟨⟩
  split
  · split
    · exact kept_arrive s p _
    · exact (aside_countBadFrame s p).kept
  · exact .refl s

theorem kept_invalidSelectEnd (p : Port) (s : State) : ∀ t, execInvalidSelectEnd p s = .next t → Kept s t := by
  rintro _ ⟨⟩
  split
  · exact (aside_countBadFrame s p).kept
  · exact .refl s

theorem kept_readSelect (p : Port) (s : State) : ∀ t, execReadSelect p s = .next t → Kept s t := by
  rintro _ ⟨⟩
  split
  · exact (aside_modifyPort s p _ fun _ h => h).kept
  · exact .refl s

theorem PortState.endRead_attached (clocked : Nat) (ps : PortState) : (ps.endRead clocked).attached = ps.attached := by
  unfold PortState.endRead
  split
  · rfl
  · dsimp only
    split
    · rfl
    · split <;> rfl

theorem kept_portReset (p : Port) (s : State) : ∀ t, execPortReset p s = .next t → Kept s t := by
  rintro _ ⟨⟩
  exact ((aside_modifyPort s p (fun ps => { ps with reading := none }) fun _ h => h).trans (aside_of_update rfl)).kept.trans
    (kept_resetPort _ p none)

/-! ### Every command, every step -/

/-- R60, R105: what every command keeps. -/
theorem exec_kept (c : Instr) (s : State) : ∀ t, exec c s = .next t → Kept s t := by
  have next : ∀ {u : State}, Kept s u → ∀ t, (.next u : Result) = .next t → Kept s t := by
    rintro u hu _ ⟨⟩
    exact hu
  cases c with
  | attach p => exact next (kept_serve s p .attach _ _ fun t _ _ _ _ _ => kept_serviceAttach p t)
  | detach p => exact next (kept_serve s p .detach _ _ fun t k _ _ _ _ => kept_resetPort t p (some k))
  | define p => exact next (kept_serve s p .define _ _ fun t _ x _ _ _ => kept_serviceDefine x.1 x.2 t)
  | amend p => exact next (kept_serve s p .amend _ _ fun t _ x _ _ _ => kept_serviceAmend x.1 x.2 t)
  | retire p => exact next (kept_serve s p .retire _ _ fun t _ id _ _ _ => kept_serviceRetire id t)
  | renew p => exact next (kept_serve s p .renew _ _ fun t _ id _ _ _ => kept_serviceRenew id t)
  | describe p => exact next (kept_serve s p .describe _ _ fun t _ id _ _ _ => kept_serviceDescribe id t)
  | list p => exact next (kept_serve s p .list _ _ fun t _ _ _ _ _ => .refl t)
  | clear p => exact next (kept_serve s p .clear _ _ fun t _ id _ _ _ => kept_serviceClear id t)
  | override p =>
    exact next (kept_serve s p .override _ _ fun t _ x _ hpass _ =>
      kept_serviceOverride (State.holder_of_passes hpass rfl) x.1 x.2)
  | report p => exact next (kept_serve s p .report _ _ fun t _ items _ _ _ => kept_serviceReport p items t)
  | watch p => exact next (kept_serve s p .watch _ _ fun t _ id _ _ _ => kept_serviceWatch p id t)
  | unwatch p => exact next (kept_serve s p .unwatch _ _ fun t _ _ _ _ _ => (aside_modifyNotices t p _).kept)
  | fetch p => exact next (kept_serve s p .fetch _ _ fun t _ _ _ _ _ => (aside_modifyNotices t p _).kept)
  | ack p => exact next (kept_serve s p .ack _ _ fun t _ seq _ _ _ => kept_serviceAck p seq t)
  | claim p =>
    exact next (kept_serve s p .claim _ _ fun t _ duration _ hpass hbody =>
      kept_serviceClaim (State.attached_of_passes hpass rfl) (bodyByte_le hbody))
  | release p => exact next (kept_serve s p .release _ _ fun t _ _ _ _ _ => kept_serviceRelease p t)
  | save p => exact next (kept_serve s p .save _ _ fun t _ _ _ _ _ => kept_serviceSave t)
  | settings p => exact next (kept_serve s p .settings _ _ fun t _ interval _ _ _ => kept_serviceSettings interval t)
  | unknownRequestCode p => exact next (kept_unknownRequest s p _)
  | captureJob => exact kept_captureJob s
  | accrualJob => exact kept_accrualJob s
  | secondTick run => exact kept_secondTick run s
  | leaseUnitComplete => exact kept_leaseUnitComplete s
  | leaseExpiry => exact kept_leaseExpiry s
  | autosaveExpiry => exact kept_autosaveExpiry s
  | pfwAssert => exact kept_pfwAssert s
  | pfwDeassert => exact kept_pfwDeassert s
  | portReset p => exact kept_portReset p s
  | prstDeassert p => exact next (aside_of_update rfl).kept
  | deviceReset => exact kept_deviceReset s
  | resetDeassert => exact kept_resetDeassert s
  | frameArrival p bytes => exact kept_frameArrival p bytes s
  | readSelect p => exact kept_readSelect p s
  | readEnd p clocked =>
    exact next (aside_modifyPort s p _ fun _ h => (PortState.endRead_attached clocked _).trans h).kept
  | invalidSelectEnd p => exact kept_invalidSelectEnd p s
  | statusRead status => exact kept_statusRead status s
  | writeEnable => exact kept_writeEnable s
  | sectorEraseTransaction => exact kept_sectorErase s
  | pageProgramTransaction => exact kept_pageProgram s
  | pageRead data => exact kept_pageRead data s
  | readyWaitTimeout => exact kept_readyWaitTimeout s
  | busyWaitTimeout => exact kept_busyWaitTimeout s

/-- 00_scope, Events: what every step keeps, the commands by `exec_kept` and the period by `kept_refclk`. -/
theorem step_kept {s t : State} (h : step s = .next t) : Kept s t := by
  rcases step_cases h with ⟨-, rfl⟩ | ⟨c, rest, -, he⟩
  · exact kept_refclk s
  · exact (aside_of_update rfl : Aside s { s with pending := rest }).kept.trans (exec_kept c _ t he)

/-! ### What the conditions of the lines and ATN_N are (R60, R101) -/

theorem urgCondition_iff (table : List Entry) :
    urgCondition table = true ↔ ∃ e ∈ table, e.cls = .urgent ∧ (e.published = .tripped ∨ e.published = .held) := by
  simp only [urgCondition, List.any_eq_true, Bool.and_eq_true, Bool.or_eq_true, decide_eq_true_eq]

theorem plnCondition_iff (table : List Entry) :
    plnCondition table = true ↔ ∃ e ∈ table, e.cls = .planned ∧ e.published = .tripped := by
  simp only [plnCondition, List.any_eq_true, Bool.and_eq_true, decide_eq_true_eq]

theorem Slots.mem_toList {v : Slots} {x : Slot} : x ∈ v.toList ↔ ∃ k, v.get k = x := by
  constructor
  · intro h
    simp only [Slots.toList, List.mem_cons, List.not_mem_nil, or_false] at h
    rcases h with rfl | rfl | rfl | rfl
    · exact ⟨.a, rfl⟩
    · exact ⟨.b, rfl⟩
    · exact ⟨.c, rfl⟩
    · exact ⟨.d, rfl⟩
  · rintro ⟨k, rfl⟩
    cases k <;> simp [Slots.toList, Slots.get]

theorem Slot.isAnswered_iff (x : Slot) : x.isAnswered = true ↔ ∃ a, x = .answered a := by
  cases x <;> simp [Slot.isAnswered]

theorem PortState.answersReady_pos_iff (ps : PortState) : 0 < ps.answersReady ↔ ∃ k a, ps.slots.get k = .answered a := by
  simp only [PortState.answersReady, List.length_pos_iff_exists_mem, List.mem_filter, Slots.mem_toList,
    Slot.isAnswered_iff]
  constructor
  · rintro ⟨_, ⟨k, rfl⟩, a, ha⟩
    exact ⟨k, a, ha⟩
  · rintro ⟨k, a, ha⟩
    exact ⟨_, ⟨k, rfl⟩, a, ha⟩

theorem NoticeUnit.undelivered_pos_iff (n : NoticeUnit) : 0 < n.undelivered ↔ ∃ x ∈ n.queue, x.delivered = false := by
  simp only [NoticeUnit.undelivered, List.length_pos_iff_exists_mem, List.mem_filter, Bool.not_eq_true']

theorem PortState.atn_iff (ps : PortState) :
    ps.atn = true ↔ ps.attached = true ∧
      ((∃ x ∈ ps.notices.queue, x.delivered = false) ∨ ps.notices.lost = true ∨ ∃ k a, ps.slots.get k = .answered a) := by
  simp only [PortState.atn, Bool.and_eq_true, Bool.or_eq_true, decide_eq_true_eq, NoticeUnit.undelivered_pos_iff,
    PortState.answersReady_pos_iff, or_assoc]

/-! ### The obligations -/

/-- Settles O56: every step is one that `step_kept` speaks of; the conditions of the lines and of ATN_N are those of R60
and R101. -/
theorem everyStepKeepsTheLines : Obligations.EveryStepKeepsTheLines :=
  ⟨fun _ _ hs h => (step_kept h).lines hs, fun table => ⟨urgCondition_iff table, plnCondition_iff table⟩,
    fun s p => PortState.atn_iff (s.ports.get p)⟩

/-- Settles O57: every step is one that `step_kept` speaks of. -/
theorem everyStepKeepsTheLease : Obligations.EveryStepKeepsTheLease := fun _ _ hs h => (step_kept h).lease hs

end Sys2Proof.Machine
end

section
/-!
SUPPORT. The timers: what a step on an empty queue does (R76, R105, R143, R162, R166), and the second tick (R76, R77).
-/
namespace Sys2Proof.Machine

/-! ### With an empty queue (log entries 5 and 7 to 9) -/

/-- R162, R166: the event of the timeout timer is that of the wait it measures. -/
theorem Link.mem_timeoutEvent {l : Link} {c : Instr} :
    c ∈ l.timeoutEvent ↔
      c = .readyWaitTimeout ∧ l.phase = .readyWait ∨ c = .busyWaitTimeout ∧ l.phase = .busyWait := by
  unfold Link.timeoutEvent
  cases l.phase <;> simp

/-- R105, R111: the unit that takes the remaining time to 0 is the expiry (log entry 9). -/
theorem Lease.unitEvent_cases (l : Lease) :
    l.unitEvent = .leaseUnitComplete ∧ 1 < l.remaining ∨ l.unitEvent = .leaseExpiry ∧ l.remaining ≤ 1 := by
  unfold Lease.unitEvent
  split
  · next h => exact .inr ⟨rfl, h⟩
  · next h => exact .inl ⟨rfl, Nat.lt_of_not_le h⟩

/-- The due events, each with the end at which its timer stands. -/
theorem State.mem_dueEvents_iff {s : State} {c : Instr} :
    c ∈ s.dueEvents ↔
      c = .secondTick (Config.runLevel s.freeIndex) ∧ 32768 ≤ s.accrual.secondTimer ∨
      c = s.lease.unitEvent ∧ s.lease.holder ≠ none ∧ (∃ n, s.lease.prescaler = some n ∧ 3277 ≤ n) ∨
      c = .autosaveExpiry ∧ s.snap.autosave = some 0 ∨
      (c = .readyWaitTimeout ∧ s.link.phase = .readyWait ∨ c = .busyWaitTimeout ∧ s.link.phase = .busyWait) ∧
        s.link.op ≠ none ∧ ∃ x, s.link.timer = some x ∧ x.limit ≤ x.count := by
  rw [State.mem_dueEvents, Accrual.due_iff, Lease.due_iff, Snapshot.expired_iff, Link.timedOut_iff, Link.mem_timeoutEvent]
  simp only [and_comm (b := c = _), and_comm (a := s.link.op ≠ none ∧ _)]

/-- Settles O2: while RESET_N is deasserted the step is one period where `State.mem_dueEvents_iff` finds no event, and takes
up one of its events where it finds any. -/
theorem emptyQueueIsOneRefclkPeriod : Obligations.EmptyQueueIsOneRefclkPeriod := by
  intro s hqueue
  rw [step_nil hqueue]
  refine ⟨fun hr => by rw [State.refclk_held hr], fun hr => ⟨?_, fun hend => ?_⟩⟩
  · rintro ⟨hsecond, hlease, hautosave, hlink⟩
    have hnone : s.dueEvents = [] := by
      refine List.eq_nil_iff_forall_not_mem.2 fun c hc => ?_
      rcases State.mem_dueEvents_iff.1 hc with ⟨-, h⟩ | ⟨-, hheld, n, hn, h⟩ | ⟨-, h⟩ | ⟨hwait, hop, x, hx, h⟩
      · exact Nat.not_le.2 hsecond h
      · exact Nat.not_le.2 (hlease n hheld hn) h
      · exact hautosave h
      · exact Nat.not_le.2 (hlink x hop (hwait.imp And.right And.right) hx) h
    rw [State.refclk_period hr hnone]
    rfl
  · have hdue : ∃ c, c ∈ s.dueEvents := by
      simp only [State.mem_dueEvents_iff]
      rcases hend with h | h | h | ⟨hop, hwait | hwait, h⟩
      · exact ⟨_, .inl ⟨rfl, h⟩⟩
      · exact ⟨_, .inr (.inl ⟨rfl, h⟩)⟩
      · exact ⟨_, .inr (.inr (.inl ⟨rfl, h⟩))⟩
      · exact ⟨_, .inr (.inr (.inr ⟨.inl ⟨rfl, hwait⟩, hop, h⟩))⟩
      · exact ⟨_, .inr (.inr (.inr ⟨.inr ⟨rfl, hwait⟩, hop, h⟩))⟩
    obtain ⟨d, hd⟩ := hdue
    obtain ⟨c, hc, hstep⟩ := State.refclk_event hr (List.ne_nil_of_mem hd)
    refine ⟨c, by rw [hstep, hqueue, List.nil_append], ?_⟩
    rcases State.mem_dueEvents_iff.1 hc with ⟨hc, h⟩ | ⟨hc, h⟩ | h | h
    · exact .inl ⟨⟨_, hc⟩, h⟩
    · exact .inr (.inl ⟨hc ▸ s.lease.unitEvent_cases, h⟩)
    · exact .inr (.inr (.inl h))
    · exact .inr (.inr (.inr h))

/-! ### The second tick (R76, R77) -/

/-- R76: while STARTING the tick restarts the second timer and is discarded. -/
theorem exec_secondTick_starting {s : State} (run : Bool) (hr : s.pins.resetN = false) (hp : s.phase = .starting) :
    exec (.secondTick run) s = .next { s with accrual := { s.accrual with secondTimer := 0 } } := by
  simp only [exec, execSecondTick, hr, hp]
  rfl

/-- R77: in RUNNING and FROZEN the tick restarts the second timer and counts. -/
theorem exec_secondTick_counted {s : State} (run : Bool) (hr : s.pins.resetN = false) (hp : s.phase ≠ .starting) :
    exec (.secondTick run) s = .next { s with accrual := Accrual.tick run { s.accrual with secondTimer := 0 } } := by
  simp only [exec, execSecondTick, hr]
  cases hphase : s.phase with
  | starting => exact absurd hphase hp
  | running => rfl
  | frozen => rfl

/-- Settles O30: the tick is discarded while STARTING and counted otherwise. -/
theorem secondTickOwesASecond : Obligations.SecondTickOwesASecond := by
  intro s run hr
  by_cases hp : s.phase = .starting
  · exact ⟨_, exec_secondTick_starting run hr hp, rfl, rfl, rfl, rfl, fun _ => ⟨rfl, rfl, rfl⟩, fun h => absurd hp h⟩
  · exact ⟨_, exec_secondTick_counted run hr hp, rfl, rfl, rfl, rfl, fun h => absurd h hp, fun _ => ⟨rfl, rfl, rfl⟩⟩

end Sys2Proof.Machine
end

section
/-!
SUPPORT. REPORT: the checks on an item and on a batch (R67, R68), what one item does to the entry it names (R69 to R72), and
what a batch does, item by item (R66, R73).
-/
namespace Sys2Proof.Machine

/-! ### The checks on an item (R67, R68) -/

theorem Item.failure_noEntry {i : Item} {table : List Entry} (p : Port) (hfind : findEntry table i.id = none) :
    i.failure table p = some .noSuchIndicator := by
  rw [Item.failure, hfind]

theorem Item.failure_runtime {i : Item} {table : List Entry} {e : Entry} (p : Port)
    (hfind : findEntry table i.id = some e) (hkind : e.kind = .runtime) : i.failure table p = some .notReportable := by
  rw [Item.failure, hfind]
  exact if_pos hkind

theorem Item.failure_notWriter {i : Item} {table : List Entry} {p : Port} {e : Entry}
    (hfind : findEntry table i.id = some e) (hkind : e.kind ≠ .runtime) (hw : e.writers.get p = false) :
    i.failure table p = some .notWriter := by
  simp only [Item.failure, hfind, if_neg hkind, hw]
  rfl

/-- R67: a writer's item for an entry that takes reports fails by its range alone. -/
theorem Item.failure_writer {i : Item} {table : List Entry} {p : Port} {e : Entry}
    (hfind : findEntry table i.id = some e) (hkind : e.kind ≠ .runtime) (hw : e.writers.get p = true) :
    i.failure table p = if i.inRange e.kind then none else some .outOfRange := by
  simp only [Item.failure, hfind, if_neg hkind, hw]
  cases i.inRange e.kind <;> rfl

theorem Item.inRange_tally_iff (i : Item) :
    i.inRange .tally = true ↔ i.tag ≠ some 0 ∧ ∃ n, i.value = .tally n ∧ 1 ≤ n := by
  unfold Item.inRange
  rw [Bool.and_eq_true, decide_eq_true_eq]
  refine and_congr_right fun _ => ?_
  cases i.value with
  | tally n =>
    show decide (1 ≤ n) = true ↔ _
    rw [decide_eq_true_eq]
    exact ⟨fun h => ⟨n, rfl, h⟩, fun ⟨_, hn, h⟩ => ItemValue.tally.inj hn ▸ h⟩
  | ratio er ex => exact ⟨fun h => absurd h Bool.false_ne_true, fun ⟨_, h, _⟩ => nomatch h⟩

theorem Item.inRange_ratio_iff (i : Item) :
    i.inRange .ratio = true ↔ i.tag ≠ some 0 ∧ ∃ er ex, i.value = .ratio er ex ∧ 1 ≤ ex ∧ er ≤ ex := by
  unfold Item.inRange
  rw [Bool.and_eq_true, decide_eq_true_eq]
  refine and_congr_right fun _ => ?_
  cases i.value with
  | tally n => exact ⟨fun h => absurd h Bool.false_ne_true, fun ⟨_, _, h, _⟩ => nomatch h⟩
  | ratio er ex =>
    show (decide (1 ≤ ex) && decide (er ≤ ex)) = true ↔ _
    rw [Bool.and_eq_true, decide_eq_true_eq, decide_eq_true_eq]
    refine ⟨fun h => ⟨er, ex, rfl, h⟩, fun ⟨er', ex', heq, h⟩ => ?_⟩
    obtain ⟨rfl, rfl⟩ := ItemValue.ratio.inj heq
    exact h

/-! ### The checks on a batch (R67) -/

/-- R67: items that pass only move the position on. -/
theorem batchFailure_append {table : List Entry} {p : Port} {before : List Item}
    (h : ∀ j ∈ before, j.failure table p = none) (first : Nat) (rest : List Item) :
    batchFailure table p first (before ++ rest) = batchFailure table p (first + before.length) rest := by
  induction before generalizing first with
  | nil => rfl
  | cons j before ih =>
    obtain ⟨hj, hbefore⟩ := List.forall_mem_cons.1 h
    rw [List.cons_append, batchFailure, hj, ih hbefore, List.length_cons, Nat.add_assoc, Nat.add_comm 1]

theorem batchFailure_eq_none {table : List Entry} {p : Port} {items : List Item}
    (h : ∀ i ∈ items, i.failure table p = none) (first : Nat) : batchFailure table p first items = none := by
  have hall := batchFailure_append h first []
  rwa [List.append_nil] at hall

theorem batchFailure_eq_some {table : List Entry} {p : Port} {before : List Item} {i : Item} {code : ResultCode}
    (h : ∀ j ∈ before, j.failure table p = none) (hi : i.failure table p = some code) (first : Nat) (after : List Item) :
    batchFailure table p first (before ++ i :: after) = some (code, first + before.length) := by
  rw [batchFailure_append h, batchFailure, hi]

/-! ### The grant of a REPORT (R66, R69) -/

/-- R69: the grant of an admitted REPORT is its service, answered in its slot. -/
theorem exec_report {s : State} {p : Port} {k : SlotNo} {r : Request} {items : List Item} {x : State × Reply}
    (hadm : Admitted s p .report k r) (hbody : bodyItems r.body = some items)
    (hx : (s.beginService p k r).serviceReport p items = x) :
    exec (.report p) s = .next (x.1.endService p k r x.2) :=
  congrArg Host.Outcome.next (hx ▸ hadm.serve bodyItems (fun t _ items => t.serviceReport p items) hbody)

theorem State.serviceReport_refused {s : State} {p : Port} {items : List Item} {code : ResultCode} {n : Nat}
    (h : batchFailure s.table p 1 items = some (code, n)) :
    s.serviceReport p items = (s, .answer code (byteList [n])) := by
  rw [State.serviceReport, h]

/-- R69, R73: the service of a REPORT whose items all pass. -/
theorem State.serviceReport_passed {s : State} {p : Port} {items : List Item}
    (h : ∀ i ∈ items, i.failure s.table p = none) :
    s.serviceReport p items =
      ((((s.applyItems items).1.addChanges (s.applyItems items).2).refreshLines),
        .answer .ok [byteOf (s.applyItems items).2, byteOf (items.length - (s.applyItems items).2)]) := by
  rw [State.serviceReport, batchFailure_eq_none h]
  rfl

/-- Settles O25: the clauses on an item are the equations of `Item.failure`, and `batchFailure_eq_some` finds the position. -/
theorem reportIsRefusedWhole : Obligations.ReportIsRefusedWhole := by
  refine fun s p => ⟨fun i => ⟨Item.failure_noEntry p, fun e hfind => ⟨Item.failure_runtime p hfind,
    Item.failure_notWriter hfind, fun hkind hw => ?_, fun hkind hw => ?_⟩⟩, ?_⟩
  · rw [Item.failure_writer hfind (by simp [hkind]) hw, hkind]
    refine ⟨fun hin => if_pos (i.inRange_tally_iff.2 hin), fun hout => if_neg fun hin => ?_⟩
    obtain ⟨htag, n, hvalue, hn⟩ := i.inRange_tally_iff.1 hin
    rcases hout with h | h | ⟨er, ex, h⟩
    · exact htag h
    · simp only [hvalue, ItemValue.tally.injEq] at h
      omega
    · simp [hvalue] at h
  · rw [Item.failure_writer hfind (by simp [hkind]) hw, hkind]
    refine ⟨fun hin => if_pos (i.inRange_ratio_iff.2 hin), fun hout => if_neg fun hin => ?_⟩
    obtain ⟨htag, er, ex, hvalue, hex, her⟩ := i.inRange_ratio_iff.1 hin
    rcases hout with h | ⟨n, h⟩ | ⟨er', ex', h, hbad⟩
    · exact htag h
    · simp [hvalue] at h
    · simp only [hvalue, ItemValue.ratio.injEq] at h
      omega
  · intro k r before i after code hadm hbody hbefore hi
    have hfail := batchFailure_eq_some hbefore hi 1 after
    rw [Nat.add_comm] at hfail
    exact ⟨_, exec_report hadm hbody (State.serviceReport_refused hfail), answersOnly_of ..⟩

/-! ### Units added to an entry (R27, R40, R72) -/

/-- R26, R27, R40, R72: the fields of a TALLY or RUNTIME entry that added units change. -/
theorem Entry.addUnits_eq (budget n : Nat) (e : Entry) :
    e.addUnits budget n = { e with
      rawTotal := satAdd48 e.rawTotal n
      saturated := e.saturated || decide (Config.max48 ≤ e.rawTotal + n)
      score := usageScore (satAdd48 e.rawTotal n) budget
      worst := min e.worst (usageScore (satAdd48 e.rawTotal n) budget)
      computed := nextVerdict false e.cls (usageScore (satAdd48 e.rawTotal n) budget) e.trip e.hyst e.computed } := by
  simp only [← satAdd48_eq_max_iff]
  rfl

/-! ### One item (R69, R71) -/

/-- R71: a tag that the history does not hold. -/
theorem Item.tag_new_iff (i : Item) (tags : List Nat) :
    i.tag.any tags.contains = false ↔ ∀ tag ∈ i.tag, tag ∉ tags := by
  cases i.tag <;> simp

/-- R71: an item with a remembered tag changes nothing. -/
theorem State.applyItem_repeated {s : State} {i : Item} {e : Entry} {tag : Nat} (hfind : findEntry s.table i.id = some e)
    (htag : i.tag = some tag) (hmem : tag ∈ e.tags) : s.applyItem i = (s, false) := by
  have hany : i.tag.any e.tags.contains = true := by simp [htag, hmem]
  simp only [State.applyItem, hfind, if_pos hany]

/-- R69: a TALLY item whose tag is new is applied. -/
theorem State.applyItem_tally {s : State} {i : Item} {e : Entry} {budget n : Nat}
    (hfind : findEntry s.table i.id = some e) (hdata : e.data = .tally budget) (hvalue : i.value = .tally n)
    (htag : ∀ tag ∈ i.tag, tag ∉ e.tags) :
    s.applyItem i = (s.replaceEntry e ((e.enterTag i.tag).addUnits budget n), true) := by
  simp only [State.applyItem, hfind, (i.tag_new_iff e.tags).2 htag, hdata, hvalue]
  rfl

/-- Settles O26: the frame of the grant is `replacesEntry_of`, the changed fields of the entry are `Entry.addUnits_eq`. -/
theorem reportAppliesATallyItem : Obligations.ReportAppliesATallyItem := by
  intro s p k r i e budget n hadm hbody hpass hfind hdata hvalue htag
  have hold : findEntry s.table e.id = some e := (findEntry_id hfind).symm ▸ hfind
  have hid : ((e.enterTag i.tag).addUnits budget n).id = e.id := by simp
  have happly := State.applyItem_tally (s := s.beginService p k r) hfind hdata hvalue htag
  refine ⟨_, (e.enterTag i.tag).addUnits budget n,
    exec_report hadm hbody (State.serviceReport_applied (s := s.beginService p k r) hpass happly),
    replacesEntry_of s.pool hold hid p k r .ok [1, 0], by simp, ?_⟩
  rw [Entry.addUnits_eq]
  cases ht : i.tag with
  | none => rfl
  | some tag =>
    rw [Entry.enterTag_some]
    rfl

/-- What an applied item leaves of the entry it names: id, definition and override; the raw total falls at most to the
largest one (R72). -/
structure EntryKept (e e' : Entry) : Prop where
  id : e'.id = e.id
  kind : e'.kind = e.kind
  cls : e'.cls = e.cls
  writers : e'.writers = e.writers
  trip : e'.trip = e.trip
  hyst : e'.hyst = e.hyst
  label : e'.label = e.label
  override : e'.override = e.override
  raw : min e.rawTotal Config.max48 ≤ e'.rawTotal

theorem EntryKept.refl (e : Entry) : EntryKept e e := ⟨rfl, rfl, rfl, rfl, rfl, rfl, rfl, rfl, Nat.min_le_left ..⟩

theorem EntryKept.trans {e e' e'' : Entry} (h : EntryKept e e') (h' : EntryKept e' e'') : EntryKept e e'' where
  id := h'.id.trans h.id
  kind := h'.kind.trans h.kind
  cls := h'.cls.trans h.cls
  writers := h'.writers.trans h.writers
  trip := h'.trip.trans h.trip
  hyst := h'.hyst.trans h.hyst
  label := h'.label.trans h.label
  override := h'.override.trans h.override
  raw := Nat.le_trans (Nat.le_min.2 ⟨h.raw, Nat.min_le_right ..⟩) h'.raw

/-- R70, R71: the newest tag is one of the history. -/
theorem Entry.mem_enterTag (tag : Nat) (e : Entry) : tag ∈ (e.enterTag (some tag)).tags := by
  rw [Entry.enterTag_some]
  exact List.mem_append_right _ (List.mem_singleton_self tag)

theorem entryKept_enterTag (tag : Option Nat) (e : Entry) : EntryKept e (e.enterTag tag) := by
  cases tag <;> exact ⟨rfl, rfl, rfl, rfl, rfl, rfl, rfl, rfl, Nat.min_le_left ..⟩

theorem satAdd48_ge (a b : Nat) : min a Config.max48 ≤ satAdd48 a b := by
  rw [satAdd48]
  omega

theorem entryKept_addUnits (budget n : Nat) (e : Entry) : EntryKept e (e.addUnits budget n) :=
  ⟨rfl, rfl, rfl, rfl, rfl, rfl, rfl, rfl, satAdd48_ge ..⟩

theorem entryKept_addObservation (free : Nat) {d : RatioDef} {st : RatioState} (errors exposure : Nat)
    (pool : List EpochRecord) {e : Entry} (hdata : e.data = .ratio d st) :
    EntryKept e (e.addObservation free d st errors exposure pool).2 := by
  have hkind : (e.addObservation free d st errors exposure pool).2.kind = e.kind := by
    rw [Entry.kind, Entry.kind, hdata]
    rfl
  exact ⟨rfl, hkind, rfl, rfl, rfl, rfl, rfl, rfl, satAdd48_ge ..⟩

/-- R69, R71: what one item can do: nothing, or the entry it names, which does not remember its tag, is replaced by one that
remembers it. -/
theorem State.applyItem_cases (s : State) (i : Item) :
    s.applyItem i = (s, false) ∨
    ∃ e e' pool, findEntry s.table i.id = some e ∧ (∀ tag ∈ i.tag, tag ∉ e.tags) ∧ EntryKept e e' ∧
      (∀ tag ∈ i.tag, tag ∈ e'.tags) ∧ s.applyItem i = (State.replaceEntry { s with pool := pool } e e', true) := by
  cases hfind : findEntry s.table i.id with
  | none => exact .inl (by rw [State.applyItem, hfind])
  | some e =>
    cases hany : i.tag.any e.tags.contains with
    | true => exact .inl (by simp only [State.applyItem, hfind, if_pos hany])
    | false =>
      have hnew := (i.tag_new_iff e.tags).1 hany
      have hremembers : ∀ tag ∈ i.tag, tag ∈ (e.enterTag i.tag).tags := fun tag ht => ht ▸ e.mem_enterTag tag
      have hkept := entryKept_enterTag i.tag e
      cases hdata : e.data <;> cases hvalue : i.value
      case tally.tally budget n =>
        exact .inr ⟨e, _, s.pool, rfl, hnew, hkept.trans (entryKept_addUnits budget n _), hremembers,
          State.applyItem_tally hfind hdata hvalue hnew⟩
      case ratio.ratio d st errors exposure =>
        have hdata' : (e.enterTag i.tag).data = .ratio d st := by rw [Entry.enterTag_data, hdata]
        exact .inr ⟨e, _, _, rfl, hnew, hkept.trans (entryKept_addObservation s.freeIndex errors exposure s.pool hdata'),
          hremembers, State.applyItem_ratio hfind hdata hvalue hnew rfl⟩
      all_goals exact .inl (by simp only [State.applyItem, hfind, hany, hdata, hvalue]; rfl)

/-- R69: an item that passes and whose tag is new is applied. -/
theorem State.applyItem_new {s : State} {i : Item} {p : Port} {e : Entry} (hpass : i.failure s.table p = none)
    (hfind : findEntry s.table i.id = some e) (hnew : ∀ tag ∈ i.tag, tag ∉ e.tags) : (s.applyItem i).2 = true := by
  have hrange := Item.inRange_of_failure_none hpass hfind
  cases hdata : e.data with
  | tally budget =>
    rw [show e.kind = .tally by rw [Entry.kind, hdata]] at hrange
    obtain ⟨-, n, hvalue, -⟩ := i.inRange_tally_iff.1 hrange
    rw [State.applyItem_tally hfind hdata hvalue hnew]
  | runtime gate budget =>
    rw [Item.failure_runtime p hfind (by rw [Entry.kind, hdata])] at hpass
    cases hpass
  | ratio d st =>
    rw [show e.kind = .ratio by rw [Entry.kind, hdata]] at hrange
    obtain ⟨-, errors, exposure, hvalue, -, -⟩ := i.inRange_ratio_iff.1 hrange
    rw [State.applyItem_ratio hfind hdata hvalue hnew rfl]

/-- R69, R71, R58: an applied item, seen from the entry it names. -/
theorem State.applyItem_applied {s : State} {i : Item} {e : Entry} (hfind : findEntry s.table i.id = some e)
    (happ : (s.applyItem i).2 = true) :
    (∀ tag ∈ i.tag, tag ∉ e.tags) ∧
      ∃ e', findEntry (s.applyItem i).1.table i.id = some e' ∧ (∀ tag ∈ i.tag, tag ∈ e'.tags) ∧
        (s.applyItem i).1.ports = s.ports.map fun ps => { ps with notices := noticesAfter e e' ps } := by
  rcases s.applyItem_cases i with heq | ⟨e₀, e', pool, hfind₀, hnew, hkept, hremembers, heq⟩
  · rw [heq] at happ
    cases happ
  · obtain rfl : e₀ = e := Option.some.inj (hfind₀.symm.trans hfind)
    have hid : e'.id = i.id := hkept.id.trans (findEntry_id hfind)
    refine ⟨hnew, e', ?_, hremembers, PerPort.ext_get fun q => ?_⟩
    · rw [heq, State.replaceEntry_table, ← hid]
      exact findEntry_putEntry_self (hid ▸ hfind)
    · rw [heq, State.replaceEntry_get, PerPort.get_map]

theorem State.applyItem_skipped {s : State} {i : Item} (h : (s.applyItem i).2 = false) : (s.applyItem i).1 = s := by
  rcases s.applyItem_cases i with heq | ⟨e, e', pool, -, -, -, -, heq⟩
  · rw [heq]
  · rw [heq] at h
    cases h

/-- R71: a second item with the tag of an applied one for the same entry changes nothing. -/
theorem State.applyItem_again {s : State} {i j : Item} {tag : Nat} (hi : i.tag = some tag) (hid : j.id = i.id)
    (hj : j.tag = some tag) (happ : (s.applyItem i).2 = true) :
    (s.applyItem i).1.applyItem j = ((s.applyItem i).1, false) := by
  rcases s.applyItem_cases i with heq | ⟨e, -, -, hfind, -⟩
  · rw [heq] at happ
    cases happ
  · obtain ⟨-, e', hfind', hremembers, -⟩ := State.applyItem_applied hfind happ
    exact State.applyItem_repeated (hid ▸ hfind') hj (hremembers tag hi)

/-! ### A batch (R66, R69, R73) -/

theorem State.applyItems_cons (s : State) (i : Item) (is : List Item) :
    s.applyItems (i :: is) = (((s.applyItem i).1.applyItems is).1,
      (if (s.applyItem i).2 then 1 else 0) + ((s.applyItem i).1.applyItems is).2) := by
  rw [State.applyItems]
  cases (s.applyItem i).2 <;> rfl

/-- The items see no difference between the state at the grant and the one in which the request is IN_SERVICE. -/
theorem itemsAgree_beginService (s : State) (p : Port) (k : SlotNo) (r : Request) :
    ItemsAgree s (s.beginService p k r) :=
  ⟨rfl, rfl, rfl, fun q => ⟨s.beginService_attached p q k r, s.beginService_notices p q k r⟩⟩

/-- What the items of a REPORT cannot change. -/
theorem ItemsFrame.rest {s t : State} (h : ItemsFrame s t) :
    t.phase = s.phase ∧ t.lastServed = s.lastServed ∧ t.lease = s.lease ∧ t.accrual = s.accrual ∧ t.snap = s.snap ∧
      t.link = s.link ∧ t.startup = s.startup ∧ t.pins = s.pins ∧ t.freeIndex = s.freeIndex ∧ t.pending = s.pending := by
  obtain ⟨hrest, -⟩ := h
  rw [hrest]
  exact ⟨rfl, rfl, rfl, rfl, rfl, rfl, rfl, rfl, rfl, rfl⟩

/-- R69, R73: the grant of a REPORT whose items all pass: what it leaves is what the items, applied to the state at the
grant, leave of table, pool and notices, with the answer and one change counted for each applied item. -/
theorem exec_report_passed {s u : State} {p : Port} {k : SlotNo} {r : Request} {items : List Item} {applied : Nat}
    (hadm : Admitted s p .report k r) (hbody : bodyItems r.body = some items)
    (hpass : ∀ i ∈ items, i.failure s.table p = none) (hu : s.applyItems items = (u, applied)) :
    ∃ t, exec (.report p) s = .next t ∧ t.table = u.table ∧ t.pool = u.pool ∧
      GrantFrame s t p k (r.reply .ok [byteOf applied, byteOf (items.length - applied)])
        (fun q => (u.ports.get q).notices) ∧
      t.snap = { s.snap with changeCount := min (s.snap.changeCount + applied) 4294967295 } ∧
      t.lease = s.lease ∧ LinesFollow t := by
  obtain ⟨hcount, hagree⟩ := State.applyItems_agree (itemsAgree_beginService s p k r) items
  have hframe := (s.beginService p k r).applyItems_frame items
  have hexec := exec_report hadm hbody (State.serviceReport_passed (s := s.beginService p k r) hpass)
  generalize (s.beginService p k r).applyItems items = served at hcount hagree hframe hexec
  obtain ⟨v, n⟩ := served
  rw [hu] at hcount hagree
  obtain rfl : n = applied := hcount
  obtain ⟨htable, hpool, -, hnotices⟩ := hagree
  obtain ⟨hphase, hserved, hlease, haccrual, hsnap, hlink, hstartup, hpins, hfree, hpending⟩ := hframe.rest
  refine ⟨_, hexec, htable, hpool, ?_, ?_, hlease, linesFollow_refresh _⟩
  · refine grantFrame_of (s := s) (t := (v.addChanges n).refreshLines) (fun q => ?_) hserved hphase haccrual hlink hstartup
      hpins hpending hfree .ok _
    have hq : (v.ports.get q).notices = (u.ports.get q).notices := (hnotices q).2
    rw [← hq]
    exact hframe.2 q
  · exact congrArg (fun x : Snapshot => { x with changeCount := satAdd32 x.changeCount n }) hsnap

/-- Settles O28: the first two clauses are `State.applyItem_repeated` and `State.applyItem_again`; in the batch of both items
the first is applied (`State.applyItem_new`) and the second is not. -/
theorem repeatedTagIsSuppressed : Obligations.RepeatedTagIsSuppressed := by
  intro s i tag htag
  refine ⟨fun e hfind hmem => State.applyItem_repeated hfind htag hmem,
    fun j hid hj happ => State.applyItem_again htag hid hj happ, ?_⟩
  intro p k r j hadm hbody hi hj hid hjtag hnew
  have happ : (s.applyItem i).2 = true := by
    cases hfind : findEntry s.table i.id with
    | none =>
      rw [Item.failure_noEntry p hfind] at hi
      cases hi
    | some e =>
      refine State.applyItem_new hi hfind fun t ht => ?_
      obtain rfl : tag = t := Option.some.inj (htag.symm.trans ht)
      exact hnew e hfind
  have hboth : s.applyItems [i, j] = ((s.applyItem i).1, 1) := by
    rw [State.applyItems_cons, State.applyItems_cons, State.applyItem_again htag hid hjtag happ, happ]
    rfl
  obtain ⟨t, hexec, htable, hpool, hframe, -⟩ := exec_report_passed hadm hbody (by simp [hi, hj]) hboth
  refine ⟨t, (s.applyItem i).1, hexec, Prod.ext rfl happ, htable, hpool, ?_⟩
  rw [hframe.ports p, portAfterGrant, if_pos rfl]
  exact Slots.get_set_self ..

/-- What the items of a REPORT keep of the table and of the ports: the ids, of each entry what `EntryKept` says, and all of a
port that is not attached. -/
structure ItemsKept (s t : State) : Prop where
  ids : t.table.map Entry.id = s.table.map Entry.id
  entries : ∀ id e, findEntry s.table id = some e → ∃ e', findEntry t.table id = some e' ∧ EntryKept e e'
  detached : ∀ q, (s.ports.get q).attached = false → t.ports.get q = s.ports.get q

theorem ItemsKept.refl (s : State) : ItemsKept s s := ⟨rfl, fun _ e h => ⟨e, h, .refl e⟩, fun _ _ => rfl⟩

theorem ItemsKept.trans {s t u : State} (h : ItemsKept s t) (h' : ItemsKept t u) : ItemsKept s u where
  ids := h'.ids.trans h.ids
  entries id e he := by
    obtain ⟨e', he', hk⟩ := h.entries id e he
    obtain ⟨e'', he'', hk'⟩ := h'.entries id e' he'
    exact ⟨e'', he'', hk.trans hk'⟩
  detached q hq := by
    have hsame := h.detached q hq
    exact (h'.detached q (hsame ▸ hq)).trans hsame

theorem itemsKept_replaceEntry {s : State} {e e' : Entry} (pool : List EpochRecord)
    (hfind : findEntry s.table e.id = some e) (hkept : EntryKept e e') :
    ItemsKept s (State.replaceEntry { s with pool := pool } e e') := by
  refine ⟨?_, fun id x hx => ?_, fun q hq => ?_⟩
  · rw [State.replaceEntry_table, putEntry_ids]
  · rw [State.replaceEntry_table]
    by_cases hid : id = e'.id
    · have hold : findEntry s.table e'.id = some e := hkept.id ▸ hfind
      subst hid
      obtain rfl : e = x := Option.some.inj (hold.symm.trans hx)
      exact ⟨e', findEntry_putEntry_self hold, hkept⟩
    · exact ⟨x, (findEntry_putEntry_other _ e' hid).trans hx, .refl x⟩
  · have hsame : noticesAfter e e' (s.ports.get q) = (s.ports.get q).notices := if_neg fun h => by simp [hq] at h
    rw [State.replaceEntry_get]
    exact congrArg (fun n => { s.ports.get q with notices := n }) hsame

theorem State.applyItem_keeps (s : State) (i : Item) : ItemsKept s (s.applyItem i).1 := by
  rcases s.applyItem_cases i with heq | ⟨e, e', pool, hfind, -, hkept, -, heq⟩
  · rw [heq]
    exact .refl s
  · rw [heq]
    exact itemsKept_replaceEntry pool (findEntry_id hfind ▸ hfind) hkept

/-- R69: an item leaves the entries that it does not name. -/
theorem State.applyItem_others (s : State) (i : Item) {id : Nat} (h : i.id ≠ id) :
    findEntry (s.applyItem i).1.table id = findEntry s.table id := by
  rcases s.applyItem_cases i with heq | ⟨e, e', pool, hfind, -, hkept, -, heq⟩
  · rw [heq]
  · rw [heq, State.replaceEntry_table]
    have hid : e'.id = i.id := hkept.id.trans (findEntry_id hfind)
    exact findEntry_putEntry_other _ e' (hid ▸ h.symm)

theorem State.applyItems_keeps (s : State) (items : List Item) : ItemsKept s (s.applyItems items).1 := by
  induction items generalizing s with
  | nil => exact .refl s
  | cons i is ih => exact (s.applyItem_keeps i).trans (ih _)

theorem State.applyItems_others (s : State) (items : List Item) {id : Nat} (h : ∀ i ∈ items, i.id ≠ id) :
    findEntry (s.applyItems items).1.table id = findEntry s.table id := by
  induction items generalizing s with
  | nil => rfl
  | cons i is ih =>
    obtain ⟨hi, his⟩ := List.forall_mem_cons.1 h
    exact (ih _ his).trans (s.applyItem_others i hi)

/-- Settles O29: one item is `State.applyItem_new`, `State.applyItem_applied` and `State.applyItem_skipped`; the batch is
`exec_report_passed`, with `State.applyItems_keeps` and `State.applyItems_others` for what the items keep. -/
theorem reportCountsItsItems : Obligations.ReportCountsItsItems := by
  refine ⟨fun _ => rfl, State.applyItems_cons, fun s p i e hpass hfind => ⟨⟨fun happ =>
    (State.applyItem_applied hfind happ).1, State.applyItem_new hpass hfind⟩, State.applyItem_skipped,
    fun happ => (State.applyItem_applied hfind happ).2⟩, ?_⟩
  intro s p k r items hadm hbody hpass
  obtain ⟨t, hexec, htable, hpool, hframe, hsnap, hlease, hlines⟩ := exec_report_passed hadm hbody hpass rfl
  have hkept := s.applyItems_keeps items
  refine ⟨t, _, _, hexec, rfl, s.applyItems_le items, htable, hpool, hframe,
    fun q hq => congrArg PortState.notices (hkept.detached q hq), hsnap, hlease, hlines, ?_, ?_, ?_⟩
  · rw [htable, hkept.ids]
  · intro id h
    rw [htable, s.applyItems_others items h]
  · intro id e he
    obtain ⟨e', he', hk⟩ := hkept.entries id e he
    exact ⟨e', htable ▸ he', hk.kind, hk.cls, hk.writers, hk.trip, hk.hyst, hk.label, hk.override, hk.raw⟩

end Sys2Proof.Machine
end

section
/-!
SUPPORT. The accrual job (R78 to R80): the table after its visits is the one before with each entry's seconds added, and each
visit hands on the change of its entry's published verdict.
-/
namespace Sys2Proof.Machine

/-! ### A table whose ids are all different (R1) -/

theorem TableSound.ids_nodup {s : State} (h : TableSound s) : (s.table.map Entry.id).Nodup := by
  obtain ⟨-, hsorted, -⟩ := h
  exact List.pairwise_map.2 (hsorted.imp Nat.ne_of_lt)

theorem findEntry_of_mem {table : List Entry} {e : Entry} (hids : (table.map Entry.id).Nodup) (he : e ∈ table) :
    findEntry table e.id = some e := by
  induction table with
  | nil => cases he
  | cons x xs ih =>
    rw [List.map_cons, List.nodup_cons] at hids
    obtain ⟨hx, hxs⟩ := hids
    rw [findEntry_cons]
    rcases List.mem_cons.1 he with rfl | he
    · exact if_pos rfl
    · have hne : x.id ≠ e.id := fun hid => hx (hid ▸ List.mem_map_of_mem he)
      rw [if_neg hne, ih hxs he]

theorem findEntry_map {f : Entry → Entry} (hf : ∀ e, (f e).id = e.id) (table : List Entry) (id : Nat) :
    findEntry (table.map f) id = (findEntry table id).map f := by
  induction table with
  | nil => rfl
  | cons x xs ih =>
    rw [List.map_cons, findEntry_cons, findEntry_cons, ih, hf]
    split <;> rfl

theorem putEntry_notMem {table : List Entry} {e : Entry} (h : e.id ∉ table.map Entry.id) : putEntry table e = table := by
  have hkeep : ∀ x ∈ table, (if x.id = e.id then e else x) = id x := by
    intro x hx
    have hne : x.id ≠ e.id := fun hid => h (hid ▸ List.mem_map_of_mem hx)
    exact if_neg hne
  rw [putEntry, List.map_congr_left hkeep, List.map_id]

/-- A changed entry in its place between the others. -/
theorem putEntry_append_cons {before after : List Entry} {e e' : Entry} (hid : e'.id = e.id)
    (hids : ((before ++ e :: after).map Entry.id).Nodup) :
    putEntry (before ++ e :: after) e' = before ++ e' :: after := by
  rw [List.map_append, List.map_cons, List.perm_middle.nodup_iff, List.nodup_cons, List.mem_append, not_or] at hids
  obtain ⟨⟨hbefore, hafter⟩, -⟩ := hids
  have hsplit : putEntry (before ++ e :: after) e' = putEntry before e' ++ e' :: putEntry after e' := by
    simp [putEntry, hid]
  rw [hsplit, putEntry_notMem (hid ▸ hbefore), putEntry_notMem (hid ▸ hafter)]

/-! ### The seconds of one entry (R78) -/

theorem Entry.accrue_unowed {a : Accrual} {e : Entry} (h : e.owed a = 0) : e.accrue a = e := by
  unfold Entry.accrue
  split
  · exact if_pos h
  · rfl
  · rfl

theorem Entry.accrue_runtime {a : Accrual} {e : Entry} {gate : Gate} {budget : Nat} (hdata : e.data = .runtime gate budget)
    (h : e.owed a ≠ 0) : e.accrue a = e.addUnits budget (e.owed a) := by
  simp only [Entry.accrue, hdata, if_neg h]

theorem Entry.owed_run (a : Accrual) {e : Entry} {budget : Nat} (hdata : e.data = .runtime .run budget) :
    e.owed a = a.owedRun + a.pendRun := by
  rw [Entry.owed, hdata]

theorem Entry.owed_powered (a : Accrual) {e : Entry} {budget : Nat} (hdata : e.data = .runtime .powered budget) :
    e.owed a = a.owedPowered + a.pendPowered := by
  rw [Entry.owed, hdata]

theorem Entry.owed_tally (a : Accrual) {e : Entry} {budget : Nat} (hdata : e.data = .tally budget) : e.owed a = 0 := by
  rw [Entry.owed, hdata]

theorem Entry.owed_ratio (a : Accrual) {e : Entry} {d : RatioDef} {st : RatioState} (hdata : e.data = .ratio d st) :
    e.owed a = 0 := by
  rw [Entry.owed, hdata]

/-! ### The visits (R78) -/

theorem State.visit_owed {a : Accrual} (s : State) {e : Entry} (h : e.owed a ≠ 0) :
    s.visit a e = s.replaceEntry e (e.accrue a) := if_neg h

theorem State.visit_unowed {a : Accrual} (s : State) {e : Entry} (h : e.owed a = 0) : s.visit a e = s := if_pos h

/-- The visit of an entry in its place between the others. -/
theorem State.visit_table_split (a : Accrual) {s : State} {before after : List Entry} {e : Entry}
    (htable : s.table = before ++ e :: after) (hids : (s.table.map Entry.id).Nodup) :
    (s.visit a e).table = before ++ e.accrue a :: after := by
  by_cases h : e.owed a = 0
  · rw [State.visit_unowed s h, Entry.accrue_unowed h, htable]
  · rw [State.visit_owed s h, State.replaceEntry_table, htable]
    exact putEntry_append_cons (Entry.accrue_id a e) (htable ▸ hids)

/-- R58, R78: the visit hands on the change of the entry's published verdict. -/
theorem State.visit_get (a : Accrual) (s : State) (e : Entry) (q : Port) :
    (s.visit a e).ports.get q =
      { s.ports.get q with notices := noticesAfter e (e.accrue a) (s.ports.get q) } := by
  by_cases h : e.owed a = 0
  · have hsame : noticesAfter e e (s.ports.get q) = (s.ports.get q).notices := if_neg fun hne => hne.1 rfl
    rw [State.visit_unowed s h, Entry.accrue_unowed h, hsame]
  · rw [State.visit_owed s h, State.replaceEntry_get]

theorem State.visit_eq (a : Accrual) (s : State) (e : Entry) :
    s.visit a e = { s with table := (s.visit a e).table, ports := (s.visit a e).ports } := by
  unfold State.visit State.replaceEntry State.publish
  split
  · rfl
  · split <;> rfl

/-- R78: each entry is visited as it stood before the job, so every one ends with its own seconds added. -/
theorem State.visits_table (a : Accrual) {s : State} {visited rest : List Entry} (htable : s.table = visited ++ rest)
    (hids : (s.table.map Entry.id).Nodup) :
    (rest.foldl (State.visit a) s).table = visited ++ rest.map (Entry.accrue a) := by
  induction rest generalizing s visited with
  | nil => exact htable
  | cons e rest ih =>
    have hnext : (s.visit a e).table = (visited ++ [e.accrue a]) ++ rest := by
      rw [State.visit_table_split a htable hids, List.append_assoc, List.singleton_append]
    have hsame : (s.visit a e).table.map Entry.id = s.table.map Entry.id := by
      rw [State.visit_table_split a htable hids, htable]
      simp
    rw [List.foldl_cons, ih hnext (hsame ▸ hids), List.append_assoc, List.singleton_append, List.map_cons]

theorem State.visits_get (a : Accrual) (s : State) (es : List Entry) (q : Port) :
    (es.foldl (State.visit a) s).ports.get q = { s.ports.get q with
      notices := es.foldl (fun n e => noticesAfter e (e.accrue a) { s.ports.get q with notices := n })
        (s.ports.get q).notices } := by
  induction es generalizing s with
  | nil => rfl
  | cons e es ih => rw [List.foldl_cons, ih, State.visit_get, List.foldl_cons]

theorem State.visits_eq (a : Accrual) (s : State) (es : List Entry) :
    es.foldl (State.visit a) s =
      { s with table := (es.foldl (State.visit a) s).table, ports := (es.foldl (State.visit a) s).ports } := by
  induction es generalizing s with
  | nil => rfl
  | cons e es ih => rw [List.foldl_cons, ih, State.visit_eq]

/-! ### The job (R78 to R80) -/

/-- R78: the state in which the granted job does its work: the job is a candidate no more. -/
def State.takeJob (s : State) : State := { s with accrual := { s.accrual with candidate := false } }

theorem exec_accrualJob_running {s : State} (h : s.arbiterChoice = some .accrual) (hp : s.phase = .running) :
    exec .accrualJob s = .next s.takeJob.accrueAll := by
  simp only [exec, execAccrualJob, h, hp, State.takeJob]

/-- R80: in FROZEN the owed seconds are held over. -/
theorem exec_accrualJob_frozen {s : State} (h : s.arbiterChoice = some .accrual) (hp : s.phase = .frozen) :
    exec .accrualJob s =
      .next { s with accrual := Accrual.holdOver { s.accrual with candidate := false } } := by
  simp only [exec, execAccrualJob, h, hp]

theorem State.accrueAll_eq (s : State) :
    s.accrueAll = { s with
      accrual := s.accrual.clearCounts, table := s.accrueAll.table, ports := s.accrueAll.ports, urg := s.accrueAll.urg
      pln := s.accrueAll.pln
      snap := { s.snap with changeCount := satAdd32 s.snap.changeCount s.accrualChanges.toNat } } := by
  unfold State.accrueAll
  rw [State.visits_eq]
  rfl

theorem State.accrueAll_table {s : State} (hids : (s.table.map Entry.id).Nodup) :
    s.accrueAll.table = s.table.map (Entry.accrue s.accrual) :=
  State.visits_table s.accrual (visited := []) rfl hids

theorem State.accrueAll_get (s : State) (q : Port) :
    s.accrueAll.ports.get q = { s.ports.get q with
      notices := s.table.foldl (fun n e => noticesAfter e (e.accrue s.accrual) { s.ports.get q with notices := n })
        (s.ports.get q).notices } :=
  State.visits_get s.accrual s s.table q

theorem State.accrualChanges_iff (s : State) : s.accrualChanges = true ↔ ∃ e ∈ s.table, e.owed s.accrual ≠ 0 := by
  simp only [State.accrualChanges, List.any_eq_true, decide_eq_true_eq]

/-- R79: the job counts one change if it added to any entry. -/
theorem State.accrueAll_snap_of_owed {s : State} (h : ∃ e ∈ s.table, e.owed s.accrual ≠ 0) :
    s.accrueAll.snap = { s.snap with changeCount := satAdd32 s.snap.changeCount 1 } := by
  rw [State.accrueAll_eq, s.accrualChanges_iff.2 h]
  rfl

theorem State.accrueAll_snap_of_unowed {s : State} (h : ∀ e ∈ s.table, e.owed s.accrual = 0)
    (hmax : s.snap.changeCount ≤ Config.max32) : s.accrueAll.snap = s.snap := by
  have hnone : s.accrualChanges = false := by
    rw [Bool.eq_false_iff, ne_eq, s.accrualChanges_iff]
    rintro ⟨e, he, howed⟩
    exact howed (h e he)
  have hcount : satAdd32 s.snap.changeCount 0 = s.snap.changeCount := Nat.min_eq_left hmax
  rw [State.accrueAll_eq, hnone]
  exact congrArg (fun n => { s.snap with changeCount := n }) hcount

/-- R78: every entry is found after the job with its own seconds added. -/
theorem State.findEntry_accrueAll {s : State} (hids : (s.table.map Entry.id).Nodup) (id : Nat) :
    findEntry s.accrueAll.table id = (findEntry s.table id).map (Entry.accrue s.accrual) := by
  rw [State.accrueAll_table hids, findEntry_map (Entry.accrue_id _)]

/-- R78: what the job makes of a RUNTIME entry, from the seconds of its gate. -/
theorem State.findEntry_accrueAll_runtime {s : State} {id : Nat} {e : Entry} {gate : Gate} {budget : Nat}
    (hids : (s.table.map Entry.id).Nodup) (he : findEntry s.table id = some e) (hdata : e.data = .runtime gate budget)
    (howed : 1 ≤ e.owed s.accrual) :
    findEntry s.accrueAll.table id = some (e.addUnits budget (e.owed s.accrual)) := by
  rw [State.findEntry_accrueAll hids, he, Option.map_some, Entry.accrue_runtime hdata (Nat.ne_of_gt howed)]

/-- R78: an entry that is owed nothing stays as it was. -/
theorem State.findEntry_accrueAll_unowed {s : State} {id : Nat} {e : Entry} (hids : (s.table.map Entry.id).Nodup)
    (he : findEntry s.table id = some e) (howed : e.owed s.accrual = 0) : findEntry s.accrueAll.table id = some e := by
  rw [State.findEntry_accrueAll hids, he, Option.map_some, Entry.accrue_unowed howed]

/-- Settles O31: in RUNNING the entries are `State.findEntry_accrueAll`, the notices `State.accrueAll_get`, the change count
`State.accrueAll_snap_of_owed`; in FROZEN the job is one update of the accrual block. -/
theorem accrualJobAddsOrHoldsSeconds : Obligations.AccrualJobAddsOrHoldsSeconds := by
  refine fun s hgrant => ⟨fun hphase hsound => ?_, fun hphase => ⟨_, exec_accrualJob_frozen hgrant hphase, rfl⟩⟩
  have hids : (s.takeJob.table.map Entry.id).Nodup := hsound.ids_nodup
  have hrest := s.takeJob.accrueAll_eq
  refine ⟨s.takeJob.accrueAll, exec_accrualJob_running hgrant hphase, ?_, ?_, ?_, fun id e he => ⟨fun b hdata => ?_,
    fun rd st hdata => ?_, fun gate budget sum hdata hsum => ?_⟩, fun q => ⟨?_, ?_⟩, linesFollow_refresh _,
    State.accrueAll_snap_of_owed (s := s.takeJob), State.accrueAll_snap_of_unowed (s := s.takeJob)⟩
  · rw [hrest]
    rfl
  · rw [hrest]
    rfl
  · rw [State.accrueAll_table hids, List.map_map]
    exact List.map_congr_left fun e _ => Entry.accrue_id _ e
  · exact State.findEntry_accrueAll_unowed hids he (Entry.owed_tally _ hdata)
  · exact State.findEntry_accrueAll_unowed hids he (Entry.owed_ratio _ hdata)
  · have howed : e.owed s.takeJob.accrual = sum := by
      rw [hsum]
      cases gate with
      | run => exact Entry.owed_run _ hdata
      | powered => exact Entry.owed_powered _ hdata
    subst howed
    refine ⟨State.findEntry_accrueAll_unowed hids he, fun hpos =>
      ⟨_, State.findEntry_accrueAll_runtime hids he hdata hpos, ?_⟩⟩
    rw [Entry.addUnits_eq]
    rfl
  · rw [State.accrueAll_get]
    rfl
  · rw [State.accrueAll_get]
    refine List.foldl_rel (r := Eq) rfl fun e he n _ hn => ?_
    subst hn
    rw [State.findEntry_accrueAll hids, findEntry_of_mem hids he]
    rfl

end Sys2Proof.Machine
end

section
/-!
SUPPORT. Every command keeps the notice queues and watch lists sound (R84, R90, R91). Beside the requests of chapter 5 the
queues change by events alone, and both go through the operations of the notice unit, whose lemmas `NoticeUnit.Sound.…` are used
here.
-/
namespace Sys2Proof.Machine

/-! ### Changes that keep the notice units sound -/

/-- Between `s` and `t` every notice unit that was sound stayed sound. -/
def NoticesKept (s t : State) : Prop := ∀ p, (s.ports.get p).notices.Sound → (t.ports.get p).notices.Sound

theorem NoticesKept.refl (s : State) : NoticesKept s s := fun _ => id

theorem NoticesKept.trans {s t u : State} (h : NoticesKept s t) (h' : NoticesKept t u) : NoticesKept s u :=
  fun p => h' p ∘ h p

theorem NoticesKept.sound {s t : State} (h : NoticesKept s t) (hs : NoticesSound s) : NoticesSound t :=
  fun p => h p (hs p)

theorem noticesKept_of_ports {s t : State} (h : t.ports = s.ports) : NoticesKept s t := fun _ hp => h ▸ hp

theorem noticesKept_modifyPort (s : State) (p : Port) (f : PortState → PortState)
    (hf : (s.ports.get p).notices.Sound → (f (s.ports.get p)).notices.Sound) : NoticesKept s (s.modifyPort p f) := by
  intro q hq
  rw [State.modifyPort_get]
  split
  · next h => exact hf (h ▸ hq)
  · exact hq

/-! ### Events (R92, R94, R95) -/

theorem noticesKept_notifyAttached (s : State) {f : NoticeUnit → NoticeUnit}
    (hf : ∀ n : NoticeUnit, n.Sound → (f n).Sound) : NoticesKept s (s.notifyAttached f) := by
  intro p hp
  rw [State.notifyAttached_get]
  dsimp only
  split
  · exact hf _ hp
  · exact hp

theorem noticesKept_systemEvent (s : State) (ev : SystemEvent) : NoticesKept s (s.systemEvent ev) :=
  noticesKept_notifyAttached s fun _ h => h.appendSystem ev

theorem noticesKept_verdictEvent (s : State) (ev : VerdictEvent) : NoticesKept s (s.verdictEvent ev) :=
  noticesKept_notifyAttached s fun _ h => h.onVerdict ev

theorem noticesKept_retirementEvent (s : State) (id score : Nat) : NoticesKept s (s.retirementEvent id score) := by
  intro p hp
  rw [State.retirementEvent_get]
  dsimp only
  split
  · exact (hp.retireQueue id score).unwatch id
  · exact hp.unwatch id

theorem noticesKept_publish (s : State) (before after : Entry) : NoticesKept s (s.publish before after) := by
  unfold State.publish
  split
  · exact .refl s
  · exact noticesKept_verdictEvent s _

/-- R58: an entry is replaced, perhaps together with the pool. -/
theorem noticesKept_replaceEntry (s : State) (pool : List EpochRecord) (before after : Entry) :
    NoticesKept s (State.replaceEntry { s with pool := pool } before after) :=
  noticesKept_publish { s with pool := pool, table := putEntry s.table after } before after

/-- R56: the override drop hands on one event after the other. -/
theorem noticesKept_overrideDrop (s : State) : NoticesKept s s.overrideDrop := by
  have hevents := List.foldlRecOn (dropEvents s.table) State.verdictEvent (motive := NoticesKept s)
    (b := { s with table := s.table.map Entry.dropOverride }) (noticesKept_of_ports rfl)
    fun t ht ev _ => ht.trans (noticesKept_verdictEvent t ev)
  exact hevents.trans (noticesKept_of_ports rfl)

theorem noticesKept_endLease (s : State) (reason : LeaseEndReason) : NoticesKept s (s.endLease reason) := by
  unfold State.endLease
  split
  · exact .refl s
  · exact (noticesKept_overrideDrop { s with lease := .unheld }).trans (noticesKept_systemEvent _ _)

/-! ### Grants -/

theorem noticesKept_beginService (s : State) (p : Port) (k : SlotNo) (r : Request) :
    NoticesKept s (s.beginService p k r) := fun q hq => (State.beginService_notices s p q k r).symm ▸ hq

theorem noticesKept_endService (s : State) (p : Port) (k : SlotNo) (r : Request) (reply : Reply) :
    NoticesKept s (s.endService p k r reply) := by
  cases reply with
  | answer result body => exact noticesKept_modifyPort s p _ id
  | wait binding =>
    exact (noticesKept_modifyPort s p (fun ps => { ps with slots := ps.slots.set k (.waiting r) }) id).trans
      (noticesKept_of_ports rfl)

/-- R10: a grant keeps what the request's own service keeps. -/
theorem noticesKept_serve (s : State) (p : Port) (c : RequestCode) (decode : List Byte → Option α)
    (service : State → SlotNo → α → State × Reply) (h : ∀ t k x, NoticesKept t (service t k x).1) :
    NoticesKept s (s.serve p c decode service) := by
  rcases State.serve_cases s p c decode service with heq | ⟨k, r, -, ⟨reply, -, heq⟩ | ⟨x, -, -, heq⟩⟩
  · rw [heq]
    exact .refl s
  · rw [heq]
    exact (noticesKept_beginService s p k r).trans (noticesKept_endService _ p k r reply)
  · rw [heq]
    exact (noticesKept_beginService s p k r).trans ((h _ k x).trans (noticesKept_endService _ p k r _))

theorem noticesKept_unknownRequest (s : State) (p : Port) (reply : State → Reply) :
    NoticesKept s (s.grantRequest p none fun t _ _ => (t, reply t)) := by
  unfold State.grantRequest
  split
  · next q k r _ =>
    split
    · exact (noticesKept_beginService s p k r).trans (noticesKept_endService _ p k r _)
    · exact .refl s
  all_goals exact .refl s

/-! ### Requests on the table (chapters 1 and 3) -/

theorem noticesKept_serviceDefine (id : Nat) (f : Fields) (s : State) : NoticesKept s (s.serviceDefine id f).1 := by
  unfold State.serviceDefine
  split
  · exact .refl s
  · next d _ =>
    split
    · exact .refl s
    · split
      · exact .refl s
      · split
        · exact .refl s
        · exact noticesKept_publish { s with table := insertEntry ((newEntry s.table id d).evaluate false) s.table } _ _

theorem noticesKept_serviceAmend (id : Nat) (f : Fields) (s : State) : NoticesKept s (s.serviceAmend id f).1 := by
  unfold State.serviceAmend
  split
  · exact .refl s
  · next e _ =>
    split
    · exact .refl s
    · split
      · exact .refl s
      · split
        · exact noticesKept_replaceEntry s s.pool e (e.amend f)
        · exact .refl s

theorem noticesKept_serviceRetire (id : Nat) (s : State) : NoticesKept s (s.serviceRetire id).1 := by
  unfold State.serviceRetire
  split
  · exact .refl s
  · next e _ =>
    exact noticesKept_retirementEvent { s with table := removeEntry s.table id, pool := clearRecords s.pool e.records } id e.score

theorem noticesKept_serviceRenew (id : Nat) (s : State) : NoticesKept s (s.serviceRenew id).1 := by
  unfold State.serviceRenew
  split
  · exact .refl s
  · next e _ => exact noticesKept_replaceEntry s (clearRecords s.pool e.records) e e.renew

theorem noticesKept_serviceDescribe (id : Nat) (s : State) : NoticesKept s (s.serviceDescribe id).1 := by
  unfold State.serviceDescribe
  split <;> exact .refl s

theorem noticesKept_serviceClear (id : Nat) (s : State) : NoticesKept s (s.serviceClear id).1 := by
  unfold State.serviceClear
  split
  · exact .refl s
  · next e _ =>
    split
    · exact noticesKept_replaceEntry s s.pool e e.clear
    all_goals exact .refl s

theorem noticesKept_serviceOverride (id value : Nat) (s : State) : NoticesKept s (s.serviceOverride id value).1 := by
  unfold State.serviceOverride
  split
  · exact .refl s
  · exact .refl s
  · next e o _ _ => exact noticesKept_replaceEntry s s.pool e (e.setOverride o)

/-! ### REPORT and the accrual job (chapter 4) -/

theorem noticesKept_applyItem (s : State) (i : Item) : NoticesKept s (s.applyItem i).1 := by
  unfold State.applyItem
  split
  · exact .refl s
  · split
    · exact .refl s
    · split
      · exact noticesKept_replaceEntry s s.pool _ _
      · exact noticesKept_replaceEntry s _ _ _
      all_goals exact .refl s

theorem noticesKept_applyItems (s : State) (items : List Item) : NoticesKept s (s.applyItems items).1 := by
  induction items generalizing s with
  | nil => exact .refl s
  | cons i is ih => exact (noticesKept_applyItem s i).trans (ih _)

theorem noticesKept_serviceReport (p : Port) (items : List Item) (s : State) :
    NoticesKept s (s.serviceReport p items).1 := by
  unfold State.serviceReport
  split
  · exact .refl s
  · exact noticesKept_applyItems s items

theorem noticesKept_visit (a : Accrual) (s : State) (e : Entry) : NoticesKept s (s.visit a e) := by
  unfold State.visit
  split
  · exact .refl s
  · exact noticesKept_replaceEntry s s.pool e (e.accrue a)

theorem noticesKept_accrueAll (s : State) : NoticesKept s s.accrueAll := by
  have hvisits := List.foldlRecOn s.table (State.visit s.accrual) (motive := NoticesKept s) (.refl s)
    fun t ht e _ => ht.trans (noticesKept_visit s.accrual t e)
  exact hvisits.trans (noticesKept_of_ports rfl)

theorem noticesKept_accrualJob (s : State) : ∀ t, execAccrualJob s = .next t → NoticesKept s t := by
  rintro _ ⟨⟩
  split
  · dsimp only
    split
    · exact noticesKept_accrueAll { s with accrual := { s.accrual with candidate := false } }
    · exact noticesKept_of_ports rfl
    · exact noticesKept_of_ports rfl
  all_goals exact .refl s

theorem noticesKept_secondTick (run : Bool) (s : State) : ∀ t, execSecondTick run s = .next t → NoticesKept s t := by
  rintro _ ⟨⟩
  split
  · exact .refl s
  · split <;> exact noticesKept_of_ports rfl

/-! ### Requests on watch lists and queues (chapter 5) -/

theorem noticesKept_modifyNotices (s : State) (p : Port) (f : NoticeUnit → NoticeUnit)
    (hf : (s.ports.get p).notices.Sound → (f (s.ports.get p).notices).Sound) : NoticesKept s (s.modifyNotices p f) :=
  noticesKept_modifyPort s p _ hf

/-- R85: an id joins the list only where it is new and the list has room. -/
theorem noticesKept_serviceWatch (p : Port) (id : Nat) (s : State) : NoticesKept s (s.serviceWatch p id).1 := by
  unfold State.serviceWatch
  dsimp only
  split
  · exact .refl s
  · split
    · exact .refl s
    · next hnew =>
      split
      · exact .refl s
      · next hroom =>
        exact noticesKept_modifyNotices s p _ fun h => h.watchId (by simpa using hnew) (Nat.lt_of_not_le hroom)

theorem noticesKept_serviceAck (p : Port) (seq : Nat) (s : State) : NoticesKept s (s.serviceAck p seq).1 := by
  unfold State.serviceAck
  dsimp only
  split
  · exact .refl s
  · next i _ => exact noticesKept_modifyNotices s p _ fun h => h.dropQueue (i + 1)

/-! ### Requests on the lease and snapshots (chapters 6 and 8) -/

theorem noticesKept_serviceClaim (p : Port) (duration : Nat) (s : State) :
    NoticesKept s (s.serviceClaim p duration).1 := by
  unfold State.serviceClaim
  split
  · exact .refl s
  · split
    · exact noticesKept_of_ports rfl
    · exact .refl s

theorem noticesKept_serviceRelease (p : Port) (s : State) : NoticesKept s (s.serviceRelease p).1 := by
  unfold State.serviceRelease
  split
  · exact noticesKept_endLease s .released
  · exact .refl s

theorem State.serviceSave_ports (s : State) : s.serviceSave.1.ports = s.ports := by
  unfold State.serviceSave
  split
  · split <;> rfl
  · rfl
  all_goals split <;> rfl

theorem State.serviceSettings_ports (interval : Nat) (s : State) : (s.serviceSettings interval).1.ports = s.ports := by
  unfold State.serviceSettings
  split <;> rfl

/-! ### The lease unit's own events (R105, R111) -/

theorem noticesKept_leaseUnitComplete (s : State) : ∀ t, execLeaseUnitComplete s = .next t → NoticesKept s t := by
  rintro _ ⟨⟩
  split
  · exact .refl s
  · split
    · exact noticesKept_endLease s .expired
    · exact noticesKept_of_ports rfl

theorem noticesKept_leaseExpiry (s : State) : ∀ t, execLeaseExpiry s = .next t → NoticesKept s t := by
  rintro _ ⟨⟩
  split
  · exact noticesKept_endLease s .expired
  · exact .refl s

/-! ### Snapshots and the FROZEN phase (chapter 8) -/

/-- R142: the answer to a waiting SAVE lies in a slot. -/
theorem noticesKept_answerSave (result : ResultCode) (body : List Byte) (s : State) (w : WaitingSave) :
    NoticesKept s (s.answerSave result body w) := by
  refine noticesKept_modifyPort s w.port _ fun h => ?_
  split <;> exact h

theorem noticesKept_answerSaves (s : State) (result : ResultCode) (body : List Byte) :
    NoticesKept s (s.answerSaves result body) := by
  have hanswers := List.foldlRecOn s.snap.due (State.answerSave result body) (motive := NoticesKept s) (.refl s)
    fun t ht w _ => ht.trans (noticesKept_answerSave result body t w)
  exact hanswers.trans (noticesKept_of_ports rfl)

theorem noticesKept_snapshotSuccess (s : State) (image : Image) : NoticesKept s (s.snapshotSuccess image) :=
  noticesKept_answerSaves
    { s with snap := { s.snap with newestBank := some s.snap.target, newestGen := headerGeneration image.header } } _ _

theorem noticesKept_snapshotFailure (s : State) : NoticesKept s s.snapshotFailure :=
  (noticesKept_answerSaves (s.addChanges s.snap.captured) _ _).trans (noticesKept_systemEvent _ .snapshotFailed)

theorem noticesKept_attemptFailure (s : State) : NoticesKept s s.attemptFailure := by
  unfold State.attemptFailure
  split
  · exact noticesKept_of_ports rfl
  · exact noticesKept_snapshotFailure s

theorem State.writeCompleted_ports (s : State) (op : FlashOp) : (s.writeCompleted op).ports = s.ports := by
  cases op with
  | erase k =>
    unfold State.writeCompleted
    dsimp only
    split <;> rfl
  | program n =>
    unfold State.writeCompleted
    dsimp only
    split
    · rfl
    · split <;> rfl
  | read n => rfl

theorem noticesKept_verifyPage (s : State) (n : Nat) (data : List Byte) : NoticesKept s (s.verifyPage n data) := by
  unfold State.verifyPage
  split
  · exact noticesKept_attemptFailure s
  · split
    · exact noticesKept_attemptFailure s
    · split
      · split
        · exact noticesKept_snapshotSuccess s _
        · exact noticesKept_attemptFailure s
      · split <;> exact noticesKept_of_ports rfl

theorem noticesKept_captureJob (s : State) : ∀ t, execCaptureJob s = .next t → NoticesKept s t := by
  rintro _ ⟨⟩
  split <;> exact noticesKept_of_ports rfl

theorem noticesKept_autosaveExpiry (s : State) : ∀ t, execAutosaveExpiry s = .next t → NoticesKept s t := by
  rintro _ ⟨⟩
  split <;> exact noticesKept_of_ports rfl

theorem noticesKept_pfwAssert (s : State) : ∀ t, execPfwAssert s = .next t → NoticesKept s t := by
  rintro _ ⟨⟩
  split
  · exact noticesKept_systemEvent { s with pins := { s.pins with pfwN := true }, phase := .frozen } .frozenEntered
  all_goals exact noticesKept_of_ports rfl

theorem noticesKept_pfwDeassert (s : State) : ∀ t, execPfwDeassert s = .next t → NoticesKept s t := by
  rintro _ ⟨⟩
  split
  · exact noticesKept_systemEvent { s with pins := { s.pins with pfwN := false }, phase := .running } .frozenLeft
  all_goals exact noticesKept_of_ports rfl

/-! ### The start-up logic leaves the ports alone (chapter 10) -/

theorem State.tryNext_ports (s : State) : s.tryNext.ports = s.ports := by
  unfold State.tryNext
  split <;> rfl

theorem State.bankFailed_ports (s : State) : s.bankFailed.ports = s.ports := State.tryNext_ports _

theorem State.judgeBank_ports (s : State) (image : Image) (sum : Nat) : (s.judgeBank image sum).ports = s.ports := by
  unfold State.judgeBank
  split
  · split
    · rfl
    · exact s.bankFailed_ports
  · exact s.bankFailed_ports

theorem State.bodyPageRead_ports (s : State) (n : Nat) (data : List Byte) : (s.bodyPageRead n data).ports = s.ports := by
  unfold State.bodyPageRead
  dsimp only
  split
  · rfl
  · exact State.judgeBank_ports _ _ _

theorem State.startupPage_ports (s : State) (n : Nat) (data : List Byte) : (s.startupPage n data).ports = s.ports := by
  unfold State.startupPage
  split
  · rfl
  · exact State.tryNext_ports _
  · exact s.bodyPageRead_ports n data
  · rfl

theorem State.startupFailure_ports (s : State) : s.startupFailure.ports = s.ports := by
  unfold State.startupFailure
  split
  · rfl
  · exact State.tryNext_ports _
  · exact s.bankFailed_ports
  · rfl

/-- R169: the device reset empties every notice unit. -/
theorem noticesKept_deviceReset (s : State) : ∀ t, execDeviceReset s = .next t → NoticesKept s t := by
  rintro _ ⟨⟩ p -
  cases p <;> exact NoticeUnit.empty_sound

theorem noticesKept_resetDeassert (s : State) : ∀ t, execResetDeassert s = .next t → NoticesKept s t := by
  rintro _ ⟨⟩
  split <;> exact noticesKept_of_ports rfl

/-! ### The memory link (chapter 9) -/

theorem noticesKept_readDone (s : State) (o : LinkOp) (n : Nat) (data : List Byte) :
    NoticesKept s (s.readDone o n data) := by
  unfold State.readDone
  split
  · exact noticesKept_verifyPage s.linkIdle n data
  · exact noticesKept_of_ports (s.linkIdle.startupPage_ports n data)

theorem noticesKept_opFailed (s : State) (o : LinkOp) : NoticesKept s (s.opFailed o) := by
  unfold State.opFailed
  split
  · exact noticesKept_attemptFailure s.linkIdle
  · exact noticesKept_of_ports s.linkIdle.startupFailure_ports

theorem noticesKept_statusRead (status : Byte) (s : State) : ∀ t, execStatusRead status s = .next t → NoticesKept s t := by
  rintro _ ⟨⟩
  split
  · dsimp only
    split <;> exact noticesKept_of_ports rfl
  · dsimp only
    split
    · exact noticesKept_of_ports rfl
    · exact noticesKept_of_ports (State.writeCompleted_ports _ _)
  all_goals exact .refl s

theorem noticesKept_writeEnable (s : State) : ∀ t, execWriteEnable s = .next t → NoticesKept s t := by
  rintro _ ⟨⟩
  split
  · split <;> exact noticesKept_of_ports rfl
  · split <;> exact noticesKept_of_ports rfl
  all_goals exact .refl s

theorem noticesKept_sectorErase (s : State) : ∀ t, execSectorEraseTransaction s = .next t → NoticesKept s t := by
  rintro _ ⟨⟩
  split
  · split <;> exact noticesKept_of_ports rfl
  all_goals exact .refl s

theorem noticesKept_pageProgram (s : State) : ∀ t, execPageProgramTransaction s = .next t → NoticesKept s t := by
  rintro _ ⟨⟩
  split
  · split <;> exact noticesKept_of_ports rfl
  all_goals exact .refl s

theorem noticesKept_pageRead (data : List Byte) (s : State) : ∀ t, execPageRead data s = .next t → NoticesKept s t := by
  rintro _ ⟨⟩
  split
  · split
    · next n bank c _ _ => exact noticesKept_readDone (s.sent (LinkOp.commandBytes ⟨.read n, bank, c⟩)) _ n data
    all_goals exact .refl s
  · exact .refl s

theorem noticesKept_readyWaitTimeout (s : State) : ∀ t, execReadyWaitTimeout s = .next t → NoticesKept s t := by
  rintro _ ⟨⟩
  split
  · exact noticesKept_opFailed s _
  all_goals exact .refl s

theorem noticesKept_busyWaitTimeout (s : State) : ∀ t, execBusyWaitTimeout s = .next t → NoticesKept s t := by
  rintro _ ⟨⟩
  split
  · exact noticesKept_opFailed s _
  all_goals exact .refl s

/-! ### Ports (chapter 7) -/

theorem noticesKept_arrive (s : State) (p : Port) (r : Request) : NoticesKept s (s.arrive p r) := by
  unfold State.arrive
  split
  · exact noticesKept_modifyPort s p _ id
  · next k _ =>
    split
    · exact noticesKept_modifyPort s p _ id
    · exact (noticesKept_modifyPort s p
        (fun ps => { ps with slots := ps.slots.set k (.queued r), arrival := ps.arrival ++ [k] }) id).trans
        (noticesKept_of_ports (State.refreshLease_ports _ p))

theorem noticesKept_countBadFrame (s : State) (p : Port) : NoticesKept s (s.countBadFrame p) :=
  noticesKept_modifyPort s p _ id

theorem noticesKept_frameArrival (p : Port) (bytes : List Byte) (s : State) :
    ∀ t, execFrameArrival p bytes s = .next t → NoticesKept s t := by
  rintro _ ⟨⟩
  split
  · split
    · exact noticesKept_arrive s p _
    · exact noticesKept_countBadFrame s p
  · exact .refl s

theorem noticesKept_invalidSelectEnd (p : Port) (s : State) :
    ∀ t, execInvalidSelectEnd p s = .next t → NoticesKept s t := by
  rintro _ ⟨⟩
  split
  · exact noticesKept_countBadFrame s p
  · exact .refl s

theorem noticesKept_readSelect (p : Port) (s : State) : ∀ t, execReadSelect p s = .next t → NoticesKept s t := by
  rintro _ ⟨⟩
  split
  · exact noticesKept_modifyPort s p _ id
  · exact .refl s

theorem PortState.endRead_notices (clocked : Nat) (ps : PortState) : (ps.endRead clocked).notices = ps.notices := by
  unfold PortState.endRead
  split
  · rfl
  · dsimp only
    split
    · rfl
    · split <;> rfl

/-- R102, R133: a port reset empties the notice unit of its port; the end of a lease tells the others. -/
theorem noticesKept_resetPort (s : State) (p : Port) (spared : Option SlotNo) :
    NoticesKept s (s.resetPort p spared) := by
  have hport : NoticesKept s (s.modifyPort p fun ps => ps.resetExcept spared) :=
    noticesKept_modifyPort s p _ fun _ => NoticeUnit.empty_sound
  unfold State.resetPort
  dsimp only
  split
  · refine hport.trans (.trans ?_ (noticesKept_endLease _ .portReset))
    exact noticesKept_of_ports rfl
  · exact hport.trans (noticesKept_of_ports rfl)

theorem noticesKept_portReset (p : Port) (s : State) : ∀ t, execPortReset p s = .next t → NoticesKept s t := by
  rintro _ ⟨⟩
  refine (noticesKept_modifyPort s p (fun ps => { ps with reading := none }) id).trans (.trans ?_ (noticesKept_resetPort _ p none))
  exact noticesKept_of_ports rfl

/-! ### Every command, every step -/

/-- R84, R90, R91: what every command keeps. -/
theorem exec_noticesKept (c : Instr) (s : State) : ∀ t, exec c s = .next t → NoticesKept s t := by
  have next : ∀ {u : State}, NoticesKept s u → ∀ t, (.next u : Result) = .next t → NoticesKept s t := by
    rintro u hu _ ⟨⟩
    exact hu
  cases c with
  | attach p => exact next (noticesKept_serve s p .attach _ _ fun t _ _ => noticesKept_modifyPort t p _ id)
  | detach p => exact next (noticesKept_serve s p .detach _ _ fun t k _ => noticesKept_resetPort t p (some k))
  | define p => exact next (noticesKept_serve s p .define _ _ fun t _ x => noticesKept_serviceDefine x.1 x.2 t)
  | amend p => exact next (noticesKept_serve s p .amend _ _ fun t _ x => noticesKept_serviceAmend x.1 x.2 t)
  | retire p => exact next (noticesKept_serve s p .retire _ _ fun t _ id => noticesKept_serviceRetire id t)
  | renew p => exact next (noticesKept_serve s p .renew _ _ fun t _ id => noticesKept_serviceRenew id t)
  | describe p => exact next (noticesKept_serve s p .describe _ _ fun t _ id => noticesKept_serviceDescribe id t)
  | list p => exact next (noticesKept_serve s p .list _ _ fun t _ _ => .refl t)
  | clear p => exact next (noticesKept_serve s p .clear _ _ fun t _ id => noticesKept_serviceClear id t)
  | override p => exact next (noticesKept_serve s p .override _ _ fun t _ x => noticesKept_serviceOverride x.1 x.2 t)
  | report p => exact next (noticesKept_serve s p .report _ _ fun t _ items => noticesKept_serviceReport p items t)
  | watch p => exact next (noticesKept_serve s p .watch _ _ fun t _ id => noticesKept_serviceWatch p id t)
  | unwatch p =>
    exact next (noticesKept_serve s p .unwatch _ _ fun t _ id => noticesKept_modifyNotices t p _ fun h => h.unwatch id)
  | fetch p =>
    exact next (noticesKept_serve s p .fetch _ _ fun t _ _ => noticesKept_modifyNotices t p _ NoticeUnit.Sound.fetch)
  | ack p => exact next (noticesKept_serve s p .ack _ _ fun t _ seq => noticesKept_serviceAck p seq t)
  | claim p => exact next (noticesKept_serve s p .claim _ _ fun t _ duration => noticesKept_serviceClaim p duration t)
  | release p => exact next (noticesKept_serve s p .release _ _ fun t _ _ => noticesKept_serviceRelease p t)
  | save p => exact next (noticesKept_serve s p .save _ _ fun t _ _ => noticesKept_of_ports t.serviceSave_ports)
  | settings p =>
    exact next (noticesKept_serve s p .settings _ _ fun t _ interval => noticesKept_of_ports (t.serviceSettings_ports interval))
  | unknownRequestCode p => exact next (noticesKept_unknownRequest s p _)
  | captureJob => exact noticesKept_captureJob s
  | accrualJob => exact noticesKept_accrualJob s
  | secondTick run => exact noticesKept_secondTick run s
  | leaseUnitComplete => exact noticesKept_leaseUnitComplete s
  | leaseExpiry => exact noticesKept_leaseExpiry s
  | autosaveExpiry => exact noticesKept_autosaveExpiry s
  | pfwAssert => exact noticesKept_pfwAssert s
  | pfwDeassert => exact noticesKept_pfwDeassert s
  | portReset p => exact noticesKept_portReset p s
  | prstDeassert p => exact next (noticesKept_of_ports rfl)
  | deviceReset => exact noticesKept_deviceReset s
  | resetDeassert => exact noticesKept_resetDeassert s
  | frameArrival p bytes => exact noticesKept_frameArrival p bytes s
  | readSelect p => exact noticesKept_readSelect p s
  | readEnd p clocked =>
    exact next (noticesKept_modifyPort s p _ fun h => (PortState.endRead_notices clocked _).symm ▸ h)
  | invalidSelectEnd p => exact noticesKept_invalidSelectEnd p s
  | statusRead status => exact noticesKept_statusRead status s
  | writeEnable => exact noticesKept_writeEnable s
  | sectorEraseTransaction => exact noticesKept_sectorErase s
  | pageProgramTransaction => exact noticesKept_pageProgram s
  | pageRead data => exact noticesKept_pageRead data s
  | readyWaitTimeout => exact noticesKept_readyWaitTimeout s
  | busyWaitTimeout => exact noticesKept_busyWaitTimeout s

/-- Log entry 5: a period with no command waiting moves timers and the queue of commands alone. -/
theorem State.refclk_ports (s : State) : s.refclk.ports = s.ports := by
  unfold State.refclk
  split
  · rfl
  · split <;> rfl

/-- Settles O59: a REFCLK period leaves the ports alone, every command keeps the notice units sound. -/
theorem everyStepKeepsTheQueues : Obligations.EveryStepKeepsTheQueues := fun _ _ =>
  step_keeps (fun s => (noticesKept_of_ports s.refclk_ports).sound) (fun _ _ => id)
    fun c s t hs h => (exec_noticesKept c s t h).sound hs

end Sys2Proof.Machine
end

section
/-!
SUPPORT. Where an event goes in one port's queue (R90, R92 to R96): the notices it finds open for its id, and each operation
of the notice unit case by case.
-/
namespace Sys2Proof.Machine

/-! ### The open notices of an id (R91, R92) -/

theorem Notice.isOpenVerdict_iff {id : Nat} {x : Notice} :
    x.isOpenVerdict id = true ↔ ∃ seq fromV toV score count, x = ⟨seq, .verdict id fromV toV score count, false⟩ := by
  obtain ⟨seq, body, delivered⟩ := x
  cases body with
  | verdict i fromV toV score count => cases delivered <;> simp [Notice.isOpenVerdict]
  | retired i score count => simp [Notice.isOpenVerdict]
  | system ev => simp [Notice.isOpenVerdict]

/-- A queue in which no notice is an open VERDICT notice for the id. -/
theorem NoticeUnit.noOpenVerdict {n : NoticeUnit} {id : Nat}
    (h : ∀ x ∈ n.queue, ∀ seq fromV toV score count, x ≠ ⟨seq, .verdict id fromV toV score count, false⟩) :
    ¬ n.queue.any (Notice.isOpenVerdict id) = true := by
  intro hany
  obtain ⟨x, hx, hopen⟩ := List.any_eq_true.1 hany
  obtain ⟨seq, fromV, toV, score, count, rfl⟩ := Notice.isOpenVerdict_iff.1 hopen
  exact h _ hx seq fromV toV score count rfl

/-- Neither search finds a notice where none is open for the id. -/
theorem NoticeUnit.noneFound {n : NoticeUnit} {id : Nat} (h : ∀ x ∈ n.queue, x.openId ≠ some id) :
    ¬ n.queue.any (Notice.isOpenVerdict id) = true ∧ ¬ n.queue.any (Notice.isOpenRetired id) = true := by
  simp only [List.any_eq_true, not_exists, not_and]
  exact ⟨fun x hx hopen => h x hx (Notice.isOpenVerdict_openId hopen),
    fun x hx hopen => h x hx (Notice.isOpenRetired_openId hopen)⟩

/-- A change of the notices that a search finds changes one notice where it finds that one alone. -/
theorem map_found {found : Notice → Bool} (f : Notice → Notice) {before after : List Notice} {x : Notice}
    (hx : found x = true) (hrest : ∀ y ∈ before ++ after, ¬ found y = true) :
    ((before ++ x :: after).map fun y => if found y then f y else y) = before ++ f x :: after := by
  have hkeep : ∀ ys : List Notice, (∀ y ∈ ys, ¬ found y = true) → (ys.map fun y => if found y then f y else y) = ys :=
    fun ys hys => (List.map_congr_left fun y hy => if_neg (hys y hy)).trans (List.map_id' ys)
  rw [List.map_append, List.map_cons, if_pos hx, hkeep before fun y hy => hrest y (List.mem_append_left _ hy),
    hkeep after fun y hy => hrest y (List.mem_append_right _ hy)]

/-! ### The operations case by case -/

/-- R90, R92, R95: a new notice takes the next sequence, or is lost in a full queue. -/
theorem NoticeUnit.append_eq (n : NoticeUnit) (body : NoticeBody) :
    n.append body =
      if n.queue.length < 16 then
        { n with queue := n.queue ++ [⟨(n.seq + 1) % 65536, body, false⟩], seq := (n.seq + 1) % 65536 }
      else { n with lost := true } := rfl

theorem NoticeUnit.onVerdict_unwatched {n : NoticeUnit} {ev : VerdictEvent} (hw : ev.id ∉ n.watch) :
    n.onVerdict ev = n := by
  rw [NoticeUnit.onVerdict, if_neg (by simpa using hw)]

/-- R93: the in-place update of the one open VERDICT notice. -/
theorem NoticeUnit.onVerdict_update {n : NoticeUnit} {ev : VerdictEvent} (hw : ev.id ∈ n.watch) {before after : List Notice}
    {x : Notice} (hq : n.queue = before ++ x :: after) (hx : x.isOpenVerdict ev.id = true)
    (hrest : ∀ y ∈ before ++ after, y.openId ≠ some ev.id) :
    n.onVerdict ev = { n with queue := before ++ x.absorb ev :: after } := by
  have hfound : n.queue.any (Notice.isOpenVerdict ev.id) = true := List.any_eq_true.2 ⟨x, by simp [hq], hx⟩
  rw [NoticeUnit.onVerdict, if_pos (by simpa using hw), if_pos hfound, hq,
    map_found (Notice.absorb ev) hx fun y hy hopen => hrest y hy (Notice.isOpenVerdict_openId hopen)]

/-- R92: behind an open RETIRED notice the event is lost. -/
theorem NoticeUnit.onVerdict_lost {n : NoticeUnit} {ev : VerdictEvent} (hw : ev.id ∈ n.watch)
    (hv : ¬ n.queue.any (Notice.isOpenVerdict ev.id) = true) (hr : n.queue.any (Notice.isOpenRetired ev.id) = true) :
    n.onVerdict ev = { n with lost := true } := by
  rw [NoticeUnit.onVerdict, if_pos (by simpa using hw), if_neg hv, if_pos hr]

theorem NoticeUnit.onVerdict_append {n : NoticeUnit} {ev : VerdictEvent} (hw : ev.id ∈ n.watch)
    (hnone : ∀ x ∈ n.queue, x.openId ≠ some ev.id) :
    n.onVerdict ev = n.append (.verdict ev.id ev.fromVerdict ev.toVerdict ev.score 1) := by
  obtain ⟨hv, hr⟩ := NoticeUnit.noneFound hnone
  rw [NoticeUnit.onVerdict, if_pos (by simpa using hw), if_neg hv, if_neg hr]

/-- R94: the conversion of the one open VERDICT notice, watched or not. -/
theorem NoticeUnit.retireQueue_convert {n : NoticeUnit} {id last : Nat} {before after : List Notice} {x : Notice}
    (hq : n.queue = before ++ x :: after) (hx : x.isOpenVerdict id = true)
    (hrest : ∀ y ∈ before ++ after, y.openId ≠ some id) :
    n.retireQueue id last = { n with queue := before ++ x.retire last :: after } := by
  have hfound : n.queue.any (Notice.isOpenVerdict id) = true := List.any_eq_true.2 ⟨x, by simp [hq], hx⟩
  rw [NoticeUnit.retireQueue, if_pos hfound, hq,
    map_found (Notice.retire last) hx fun y hy hopen => hrest y hy (Notice.isOpenVerdict_openId hopen)]

/-- R94: the update of the one open RETIRED notice. -/
theorem NoticeUnit.retireQueue_update {n : NoticeUnit} {id last : Nat} (hw : id ∈ n.watch) {before after : List Notice}
    {x : Notice} (hq : n.queue = before ++ x :: after) (hx : x.isOpenRetired id = true)
    (hv : ¬ n.queue.any (Notice.isOpenVerdict id) = true) (hrest : ∀ y ∈ before ++ after, y.openId ≠ some id) :
    n.retireQueue id last = { n with queue := before ++ x.retire last :: after } := by
  have hfound : n.queue.any (Notice.isOpenRetired id) = true := List.any_eq_true.2 ⟨x, by simp [hq], hx⟩
  rw [NoticeUnit.retireQueue, if_neg hv, if_pos (by simpa using hw), if_pos hfound, hq,
    map_found (Notice.retire last) hx fun y hy hopen => hrest y hy (Notice.isOpenRetired_openId hopen)]

theorem NoticeUnit.retireQueue_append {n : NoticeUnit} {id last : Nat} (hw : id ∈ n.watch)
    (hnone : ∀ x ∈ n.queue, x.openId ≠ some id) : n.retireQueue id last = n.append (.retired id last 1) := by
  obtain ⟨hv, hr⟩ := NoticeUnit.noneFound hnone
  rw [NoticeUnit.retireQueue, if_neg hv, if_pos (by simpa using hw), if_neg hr]

theorem NoticeUnit.retireQueue_unwatched {n : NoticeUnit} {id last : Nat} (hw : id ∉ n.watch)
    (hv : ¬ n.queue.any (Notice.isOpenVerdict id) = true) : n.retireQueue id last = n := by
  rw [NoticeUnit.retireQueue, if_neg hv, if_neg (by simpa using hw)]

/-! ### The obligation -/

/-- Where the one open notice of an id is a RETIRED one, no open VERDICT notice is found. -/
theorem NoticeUnit.noOpenVerdict_of_retired {n : NoticeUnit} {id : Nat} {before after : List Notice}
    {seq score count : Nat} (hq : n.queue = before ++ ⟨seq, .retired id score count, false⟩ :: after)
    (hrest : ∀ y ∈ before ++ after, y.openId ≠ some id) : ¬ n.queue.any (Notice.isOpenVerdict id) = true := by
  refine NoticeUnit.noOpenVerdict fun x hx seq' fromV toV score' count' heq => ?_
  subst heq
  rw [hq, List.mem_append, List.mem_cons] at hx
  rcases hx with hx | hx | hx
  · exact hrest _ (List.mem_append_left _ hx) rfl
  · cases hx
  · exact hrest _ (List.mem_append_right _ hx) rfl

/-- Settles O34: each case is the equation of `NoticeUnit.onVerdict` or `NoticeUnit.retireQueue` for it; a system event is
`State.systemEvent_get`. -/
theorem eventsFindTheirPlaceInAQueue : Obligations.EventsFindTheirPlaceInAQueue := by
  refine fun n => ⟨fun ev => ⟨NoticeUnit.onVerdict_unwatched, ?_, ?_, NoticeUnit.onVerdict_append⟩, fun id last => ⟨?_, ?_,
    NoticeUnit.retireQueue_append, fun hw hv => NoticeUnit.retireQueue_unwatched hw (NoticeUnit.noOpenVerdict hv)⟩, ?_⟩
  · intro hw before seq fromV toV score count after hq hrest
    exact NoticeUnit.onVerdict_update hw hq (by simp [Notice.isOpenVerdict]) hrest
  · rintro hw ⟨seq, score, count, hmem⟩ hv
    exact NoticeUnit.onVerdict_lost hw (NoticeUnit.noOpenVerdict hv)
      (List.any_eq_true.2 ⟨_, hmem, by simp [Notice.isOpenRetired]⟩)
  · intro before seq fromV toV score count after hq hrest
    exact NoticeUnit.retireQueue_convert hq (by simp [Notice.isOpenVerdict]) hrest
  · intro hw before seq score count after hq hrest
    exact NoticeUnit.retireQueue_update hw hq (by simp [Notice.isOpenRetired])
      (NoticeUnit.noOpenVerdict_of_retired hq hrest) hrest
  · intro s ev q
    rw [State.systemEvent_get, NoticeUnit.append_eq]
    cases (s.ports.get q).attached <;> rfl

end Sys2Proof.Machine
end

section
/-!
SUPPORT. The requests of chapter 5: WATCH and UNWATCH (R85, R86), FETCH and ACK (R98, R99), and the records of FETCH (R186).
-/
namespace Sys2Proof.Machine

/-! ### Requests on the notice unit of their port -/

/-- What a request leaves that changes the notices of its own port alone. -/
theorem noticesRequest_frame (s : State) (p : Port) (k : SlotNo) (r : Request) (f : NoticeUnit → NoticeUnit)
    (result : ResultCode) (body : List Byte) :
    GrantFrame s (((s.beginService p k r).modifyNotices p f).endService p k r (.answer result body)) p k
      (r.reply result body) (fun q => if q = p then f (s.ports.get p).notices else (s.ports.get q).notices) := by
  refine grantFrame_of (s := s) (t := (s.beginService p k r).modifyNotices p f) (p := p) (k := k) (r := r) (fun q => ?_)
    rfl rfl rfl rfl rfl rfl rfl rfl result body
  rw [State.modifyNotices, State.modifyPort_get]
  by_cases hq : q = p
  · subst hq
    simp
  · rw [if_neg hq, if_neg hq, ← State.beginService_notices s p q k r]

/-! ### WATCH and UNWATCH (R85, R86) -/

section
variable {s : State} {p : Port} {id : Nat} {e : Entry}

/-- R85: an id that is on the list stays there once. -/
theorem State.serviceWatch_listed (hfind : findEntry s.table id = some e) (hin : id ∈ (s.ports.get p).notices.watch) :
    s.serviceWatch p id = (s, .answer .ok (e.watchBody (s.ports.get p).notices.watch.length)) := by
  rw [State.serviceWatch, hfind]
  exact if_pos (by simpa using hin)

theorem State.serviceWatch_full (hfind : findEntry s.table id = some e) (hnew : id ∉ (s.ports.get p).notices.watch)
    (hfull : 32 ≤ (s.ports.get p).notices.watch.length) : s.serviceWatch p id = (s, .code .watchFull) := by
  rw [State.serviceWatch, hfind]
  exact (if_neg (by simpa using hnew)).trans (if_pos hfull)

theorem State.serviceWatch_joined (hfind : findEntry s.table id = some e) (hnew : id ∉ (s.ports.get p).notices.watch)
    (hroom : (s.ports.get p).notices.watch.length < 32) :
    s.serviceWatch p id =
      (s.modifyNotices p fun n => { n with watch := insertId id n.watch },
       .answer .ok (e.watchBody ((s.ports.get p).notices.watch.length + 1))) := by
  rw [State.serviceWatch, hfind]
  exact (if_neg (by simpa using hnew)).trans (if_neg (Nat.not_le.2 hroom))

end

/-- R86: an id that was taken off is on the list no more, every other one as before. -/
theorem NoticeUnit.mem_unwatch {n : NoticeUnit} {id i : Nat} : i ∈ (n.unwatch id).watch ↔ i ∈ n.watch ∧ i ≠ id := by
  simp [NoticeUnit.unwatch]

/-- Settles O32: a WATCH is one of `State.serviceWatch_listed`, `State.serviceWatch_full` and `State.serviceWatch_joined`, an
UNWATCH changes the list as `NoticeUnit.mem_unwatch` says. -/
theorem watchListsFollowRequests : Obligations.WatchListsFollowRequests := by
  refine fun s p k r id => ⟨fun e hadm hbody hfind => ?_, fun hadm hbody => ?_⟩
  · have hnotices := State.beginService_notices s p p k r
    have hserve := hadm.serve bodyByte (fun t _ id => t.serviceWatch p id) hbody
    have hid := findEntry_id hfind
    subst hid
    refine ⟨fun hin => ?_, fun hnew hfull => ?_, fun hnew hroom => ?_⟩
    · rw [State.serviceWatch_listed (s := s.beginService p k r) hfind (hnotices ▸ hin), hnotices] at hserve
      exact ⟨_, congrArg Host.Outcome.next hserve, answersOnly_of s p k r _ _⟩
    · rw [State.serviceWatch_full (s := s.beginService p k r) hfind (hnotices ▸ hnew) (hnotices ▸ hfull)] at hserve
      exact ⟨_, congrArg Host.Outcome.next hserve, answersOnly_of s p k r _ _⟩
    · rw [State.serviceWatch_joined (s := s.beginService p k r) hfind (hnotices ▸ hnew) (hnotices ▸ hroom), hnotices] at hserve
      exact ⟨_, _, congrArg Host.Outcome.next hserve, insertId_perm e.id _,
        noticesRequest_frame s p k r (fun n => { n with watch := insertId e.id n.watch }) _ _, rfl⟩
  · have hserve := hadm.serve bodyByte (fun t _ id => t.serviceUnwatch p id) hbody
    rw [State.serviceUnwatch, State.beginService_notices] at hserve
    exact ⟨_, _, congrArg Host.Outcome.next hserve, fun h => (NoticeUnit.mem_unwatch.1 h).2 rfl,
      fun i hi => NoticeUnit.mem_unwatch.trans (and_iff_left hi),
      noticesRequest_frame s p k r (NoticeUnit.unwatch id) _ _, rfl⟩

/-! ### The record of a notice (R186) -/

/-- R178, R186: the nine bytes that depend on the kind of a notice. -/
def NoticeBody.bytes : NoticeBody → List Byte
  | .verdict id fromV toV score count => byteList [1, id, fromV.code, toV.code, score, count, 0, 0xFF, 0]
  | .retired id score count => byteList [2, id, 0, 0, score, count, 0, 0xFF, 0]
  | .system (.leaseEnded former reason) =>
    byteList [3, 0, 0, 0, 0, 1, SystemEvent.code (.leaseEnded former reason), portCode former, reason.code]
  | .system .snapshotFailed => byteList [3, 0, 0, 0, 0, 1, 1, 0xFF, 0]
  | .system .frozenEntered => byteList [3, 0, 0, 0, 0, 1, 3, 0xFF, 0]
  | .system .frozenLeft => byteList [3, 0, 0, 0, 0, 1, 4, 0xFF, 0]

theorem NoticeBody.bytes_length (b : NoticeBody) : b.bytes.length = 9 := by
  cases b with
  | verdict | retired => rfl
  | system ev => cases ev <;> rfl

theorem Notice.bytes_eq (x : Notice) : x.bytes = leBytes 2 x.seq ++ x.body.bytes ++ [flagByte x.delivered] := by
  obtain ⟨seq, body, delivered⟩ := x
  cases body with
  | verdict | retired => rfl
  | system ev => cases ev <;> rfl

theorem Notice.bytes_fields (x : Notice) :
    x.bytes.length = 12 ∧ x.bytes.take 2 = leBytes 2 x.seq ∧ (x.bytes.drop 2).take 9 = x.body.bytes ∧
      x.bytes.drop 11 = [flagByte x.delivered] := by
  have hseq : (leBytes 2 x.seq).length = 2 := leBytes_length 2 x.seq
  have hbody := x.body.bytes_length
  rw [Notice.bytes_eq, List.append_assoc]
  refine ⟨by simp [hbody], List.take_left' hseq, ?_, ?_⟩
  · rw [List.drop_left' hseq, List.take_left' hbody]
  · rw [← List.append_assoc]
    exact List.drop_left' (by simp [hbody])

/-! ### FETCH (R98) -/

theorem byteOf_toNat_flag (b : Bool) : byteOf b.toNat = if b then 1 else 0 := by cases b <;> rfl

/-- R98: what a FETCH hands over it marks delivered, so that the undelivered notices left are those behind it. -/
theorem NoticeUnit.fetch_undelivered (n : NoticeUnit) :
    n.fetch.undelivered = ((n.queue.drop 6).filter fun x => !x.delivered).length := by
  have hfetched : ∀ xs : List Notice, ((xs.map fun x => { x with delivered := true }).filter fun x => !x.delivered) = [] :=
    fun xs => List.filter_eq_nil_iff.2 fun y hy => by
      obtain ⟨x, -, rfl⟩ := List.mem_map.1 hy
      simp
  simp only [NoticeUnit.undelivered, NoticeUnit.fetch, List.filter_append, hfetched, List.nil_append, Config.fetchSize]

theorem NoticeUnit.fetchBody_eq (n : NoticeUnit) :
    n.fetchBody =
      [byteOf (min 6 n.queue.length), if n.lost then 1 else 0,
        byteOf ((n.queue.drop 6).filter fun x => !x.delivered).length] ++ (n.queue.take 6).flatMap Notice.bytes := by
  simp only [NoticeUnit.fetchBody, byteList, List.map_cons, List.map_nil, NoticeUnit.fetch_undelivered,
    byteOf_toNat_flag, List.length_take, Config.fetchSize]

theorem exec_fetch {s : State} {p : Port} {k : SlotNo} {r : Request} (hadm : Admitted s p .fetch k r) (hbody : r.body = []) :
    exec (.fetch p) s = .next (((s.beginService p k r).modifyNotices p NoticeUnit.fetch).endService p k r
      (.answer .ok (s.ports.get p).notices.fetchBody)) := by
  have hserve := hadm.serve bodyNone (fun t _ _ => t.serviceFetch p) (x := ()) (by rw [hbody]; rfl)
  rw [State.serviceFetch, State.beginService_notices] at hserve
  exact congrArg Host.Outcome.next hserve

/-! ### ACK (R99) -/

/-- R99: no delivered notice has the sequence. -/
theorem NoticeUnit.ackIndex_none {n : NoticeUnit} {seq : Nat} (h : ∀ x ∈ n.queue, x.seq = seq → x.delivered = false) :
    n.ackIndex seq = none := by
  refine List.findIdx?_eq_none_iff.2 fun x hx => ?_
  by_cases hseq : x.seq = seq
  · simp [h x hx hseq]
  · simp [hseq]

/-- R99: the place of the notice that an ACK names is the number of those before it. -/
theorem NoticeUnit.ackIndex_some {n : NoticeUnit} {seq : Nat} {before after : List Notice} {x : Notice}
    (hq : n.queue = before ++ x :: after) (hseq : x.seq = seq) (hdelivered : x.delivered = true)
    (hbefore : ∀ y ∈ before, y.seq ≠ seq) : n.ackIndex seq = some before.length := by
  have hnone : before.findIdx? (fun y => y.delivered && decide (y.seq = seq)) = none :=
    List.findIdx?_eq_none_iff.2 fun y hy => by simp [hbefore y hy]
  simp [NoticeUnit.ackIndex, hq, List.findIdx?_append, hnone, List.findIdx?_cons, hseq, hdelivered]

section
variable {s : State} {p : Port} {k : SlotNo} {r : Request} {seq : Nat}

theorem exec_ack_refused (hadm : Admitted s p .ack k r) (hbody : bodyWord r.body = some seq)
    (h : (s.ports.get p).notices.ackIndex seq = none) :
    exec (.ack p) s = .next ((s.beginService p k r).endService p k r (.code .badSequence)) := by
  have hserve := hadm.serve bodyWord (fun t _ seq => t.serviceAck p seq) hbody
  rw [State.serviceAck, State.beginService_notices, h] at hserve
  exact congrArg Host.Outcome.next hserve

theorem exec_ack_taken {i : Nat} (hadm : Admitted s p .ack k r) (hbody : bodyWord r.body = some seq)
    (h : (s.ports.get p).notices.ackIndex seq = some i) :
    exec (.ack p) s = .next
      (((s.beginService p k r).modifyNotices p fun n => { n with queue := n.queue.drop (i + 1) }).endService p k r
        (.answer .ok (byteList [i + 1, ((s.ports.get p).notices.queue.drop (i + 1)).length]))) := by
  have hserve := hadm.serve bodyWord (fun t _ seq => t.serviceAck p seq) hbody
  rw [State.serviceAck, State.beginService_notices, h] at hserve
  exact congrArg Host.Outcome.next hserve

end

/-! ### The obligation -/

/-- Settles O33: the record of a notice is `Notice.bytes_fields`, the answer to a FETCH `NoticeUnit.fetchBody_eq`, the place of
an ACK `NoticeUnit.ackIndex_none` or `NoticeUnit.ackIndex_some`. -/
theorem fetchAndAckServeTheQueue : Obligations.FetchAndAckServeTheQueue := by
  refine ⟨fun x => ?_, fun s p k r => ⟨fun hadm hbody => ?_, fun seq hadm hbody => ⟨fun hnone => ?_, ?_⟩⟩⟩
  · obtain ⟨hlength, hseq, hbytes, hdelivered⟩ := x.bytes_fields
    rw [hbytes]
    refine ⟨hlength, hseq, hdelivered, fun id fromV toV score count h => ?_, fun _ _ _ h => by rw [h]; rfl,
      fun h => by rw [h]; rfl, fun former reason h => ?_, fun h => by rw [h]; rfl, fun h => by rw [h]; rfl⟩
    · rw [h]
      cases fromV <;> cases toV <;> rfl
    · rw [h]
      cases former <;> cases reason <;> rfl
  · have hframe := noticesRequest_frame s p k r NoticeUnit.fetch .ok (s.ports.get p).notices.fetchBody
    have hexec := exec_fetch hadm hbody
    rw [NoticeUnit.fetchBody_eq] at hframe hexec
    exact ⟨_, _, hexec, rfl, hframe, rfl⟩
  · exact ⟨_, exec_ack_refused hadm hbody (NoticeUnit.ackIndex_none hnone), answersOnly_of s p k r _ _⟩
  · intro before x after hq hseq hdelivered hbefore
    have hexec := exec_ack_taken hadm hbody (NoticeUnit.ackIndex_some hq hseq hdelivered hbefore)
    have hframe := noticesRequest_frame s p k r (fun n => { n with queue := n.queue.drop (before.length + 1) }) .ok
      (byteList [before.length + 1, ((s.ports.get p).notices.queue.drop (before.length + 1)).length])
    have hdrop : (s.ports.get p).notices.queue.drop (before.length + 1) = after := by
      rw [hq, List.append_cons]
      exact List.drop_left' (by simp)
    rw [hdrop] at hexec hframe
    exact ⟨_, hexec, hframe, rfl⟩

end Sys2Proof.Machine
end

section
/-!
SUPPORT. The lease unit (chapter 6): CLAIM and RELEASE (R107, R109), the end of a lease as the claims speak of it (R56, R113),
and the unit's own events (R105, R111).
-/
namespace Sys2Proof.Machine

/-! ### CLAIM (R107) -/

/-- R109, R113: the body of NOT_HOLDER and HELD_ELSEWHERE, where a port may hold the lease or none. -/
theorem Lease.holderBody_eq (l : Lease) :
    l.holderBody = [match l.holder with | none => 0xFF | some q => byteOf (portCode q), byteOf l.remaining] := by
  unfold Lease.holderBody
  cases l.holder <;> rfl

section
variable {s : State} {p : Port} {duration : Nat}

theorem State.serviceClaim_zero (s : State) (p : Port) : s.serviceClaim p 0 = (s, .code .outOfRange) := rfl

theorem State.serviceClaim_taken (hpos : 1 ≤ duration) (hfree : s.lease.holder = none ∨ s.lease.holder = some p) :
    s.serviceClaim p duration =
      ({ s with lease := .claimed p duration }, .answer .ok (byteList [portCode p, duration, duration])) :=
  (if_neg (Nat.one_le_iff_ne_zero.1 hpos)).trans (if_pos hfree)

theorem State.serviceClaim_elsewhere {q : Port} (hpos : 1 ≤ duration) (hq : s.lease.holder = some q) (hne : q ≠ p) :
    s.serviceClaim p duration =
      (s, .answer .heldElsewhere [byteOf (portCode q), byteOf s.lease.remaining]) := by
  have hother : ¬ (s.lease.holder = none ∨ s.lease.holder = some p) := by simp [hq, hne]
  have hbody : s.lease.holderBody = [byteOf (portCode q), byteOf s.lease.remaining] := by rw [Lease.holderBody_eq, hq]
  rw [← hbody]
  exact (if_neg (Nat.one_le_iff_ne_zero.1 hpos)).trans (if_neg hother)

theorem exec_claim {k : SlotNo} {r : Request} {x : State × Reply} (hadm : Admitted s p .claim k r)
    (hbody : bodyByte r.body = some duration) (hx : (s.beginService p k r).serviceClaim p duration = x) :
    exec (.claim p) s = .next (x.1.endService p k r x.2) :=
  congrArg Host.Outcome.next (hx ▸ hadm.serve bodyByte (fun t _ duration => t.serviceClaim p duration) hbody)

end

/-- What a request leaves that puts another lease in the place of the one there was, and changes nothing else. -/
theorem leaseRequest_frame (s : State) (p : Port) (k : SlotNo) (r : Request) (l : Lease) (result : ResultCode)
    (body : List Byte) :
    GrantFrame s (State.endService { s.beginService p k r with lease := l } p k r (.answer result body)) p k
      (r.reply result body) (fun q => (s.ports.get q).notices) :=
  grantFrame_of (s := s) (t := { s.beginService p k r with lease := l }) (p := p) (k := k) (r := r)
    (fun q => by rw [← State.beginService_notices s p q k r]) rfl rfl rfl rfl rfl rfl rfl rfl result body

/-- Settles O35: a CLAIM is one of `State.serviceClaim_zero`, `State.serviceClaim_taken` and
`State.serviceClaim_elsewhere`. -/
theorem claimTakesTheLease : Obligations.ClaimTakesTheLease := by
  intro s p k r duration hadm hbody
  refine ⟨?_, fun hpos hfree => ?_, fun q hpos hq hne => ?_⟩
  · rintro rfl
    exact ⟨_, exec_claim hadm hbody (State.serviceClaim_zero _ p), answersOnly_of s p k r _ _⟩
  · exact ⟨_, exec_claim hadm hbody (State.serviceClaim_taken hpos hfree),
      leaseRequest_frame s p k r (.claimed p duration) .ok _, rfl⟩
  · exact ⟨_, exec_claim hadm hbody (State.serviceClaim_elsewhere hpos hq hne), answersOnly_of s p k r _ _⟩

/-! ### The end of the lease (R56, R113) -/

section
variable {s : State} {former : Port}

/-- R56, R113: the end of a lease that is held, in the words of the claims. -/
theorem leaseEnded_endLease (hh : s.lease.holder = some former) (reason : LeaseEndReason) :
    LeaseEnded s (s.endLease reason) := by
  rw [State.endLease_eq s reason hh]
  exact ⟨⟨rfl, rfl, rfl, rfl⟩, rfl, ⟨rfl, rfl⟩, rfl, rfl, rfl, rfl, rfl, rfl, rfl⟩

/-- R56, R113: every port hears of the dropped overrides and of the end of the lease. -/
theorem State.endLease_notified (hh : s.lease.holder = some former) (reason : LeaseEndReason) (q : Port) :
    (s.endLease reason).ports.get q =
      { s.ports.get q with notices := noticesAfterLeaseEnd s.table former reason (s.ports.get q) } :=
  State.endLease_get s reason hh q

end

/-! ### RELEASE (R109) -/

section
variable {s : State} {p : Port} {k : SlotNo} {r : Request}

theorem State.serviceRelease_holder (hh : s.lease.holder = some p) :
    s.serviceRelease p = (s.endLease .released, .code .ok) := if_pos hh

theorem State.serviceRelease_other (hh : s.lease.holder ≠ some p) :
    s.serviceRelease p = (s, .answer .notHolder
      [match s.lease.holder with | none => 0xFF | some q => byteOf (portCode q), byteOf s.lease.remaining]) := by
  rw [← Lease.holderBody_eq]
  exact if_neg hh

theorem exec_release {x : State × Reply} (hadm : Admitted s p .release k r) (hbody : r.body = [])
    (hx : (s.beginService p k r).serviceRelease p = x) :
    exec (.release p) s = .next (x.1.endService p k r x.2) := by
  have hnone : bodyNone r.body = some () := by rw [hbody]; rfl
  exact congrArg Host.Outcome.next (hx ▸ hadm.serve bodyNone (fun t _ _ => t.serviceRelease p) hnone)

/-- R10: the begin of a service touches no notice, so the end of the lease within it notifies each port as before it. -/
theorem noticesAfterLeaseEnd_beginService (table : List Entry) (former : Port) (reason : LeaseEndReason) (q : Port) :
    noticesAfterLeaseEnd table former reason ((s.beginService p k r).ports.get q) =
      noticesAfterLeaseEnd table former reason (s.ports.get q) := by
  unfold noticesAfterLeaseEnd
  rw [State.beginService_attached, State.beginService_notices]

/-- R113: a lease that ends within a grant that is answered. -/
theorem leaseEnded_grant {former : Port} (hh : s.lease.holder = some former) (reason : LeaseEndReason)
    (result : ResultCode) (body : List Byte) :
    LeaseEnded s (((s.beginService p k r).endLease reason).endService p k r (.answer result body)) := by
  obtain ⟨hlease, htable, hlines, hrest⟩ := leaseEnded_endLease (s := s.beginService p k r) hh reason
  exact ⟨hlease, htable, hlines, hrest⟩

theorem leaseEnd_frame {former : Port} (hh : s.lease.holder = some former) (reason : LeaseEndReason)
    (result : ResultCode) (body : List Byte) :
    GrantFrame s (((s.beginService p k r).endLease reason).endService p k r (.answer result body)) p k
      (r.reply result body) (fun q => noticesAfterLeaseEnd s.table former reason (s.ports.get q)) := by
  obtain ⟨-, -, -, hphase, -, haccrual, hlink, hstart, hpend, hfree⟩ :=
    leaseEnded_endLease (s := s.beginService p k r) hh reason
  refine grantFrame_of (s := s) (t := (s.beginService p k r).endLease reason) (p := p) (k := k) (r := r) (fun q => ?_)
    (State.endLease_lastServed _ reason) hphase haccrual hlink hstart (State.endLease_pins _ reason) hpend hfree result body
  rw [State.endLease_notified (s := s.beginService p k r) hh, noticesAfterLeaseEnd_beginService]
  rfl

end

/-- Settles O36: the holder's RELEASE ends the lease within the grant (`leaseEnded_grant`, `leaseEnd_frame`), any other is
answered alone. -/
theorem releaseEndsTheLease : Obligations.ReleaseEndsTheLease := by
  intro s p k r hadm hbody
  refine ⟨fun hh => ?_, fun hh => ?_⟩
  · exact ⟨_, exec_release hadm hbody (State.serviceRelease_holder hh), leaseEnded_grant hh .released .ok [],
      leaseEnd_frame hh .released .ok [], State.endLease_snap _ .released⟩
  · exact ⟨_, exec_release hadm hbody (State.serviceRelease_other hh), answersOnly_of s p k r _ _⟩

/-! ### The unit's own events (R105, R111) -/

/-- R111, log entry 9: the completion of the last unit and the expiry are the same event. -/
theorem exec_leaseEvent_last {s : State} {c : Instr} {p : Port} (hc : c = .leaseUnitComplete ∨ c = .leaseExpiry)
    (hh : s.lease.holder = some p) (hlast : s.lease.remaining ≤ 1) : exec c s = .next (s.endLease .expired) := by
  have hheld : s.lease.holder ≠ none := by simp [hh]
  rcases hc with rfl | rfl
  · exact congrArg Host.Outcome.next ((if_neg hheld).trans (if_pos hlast))
  · exact congrArg Host.Outcome.next (if_pos hlast)

/-- R105: a unit that is not the last one takes one from the remaining time. -/
theorem exec_leaseUnitComplete_more {s : State} {p : Port} (hh : s.lease.holder = some p)
    (hmore : 2 ≤ s.lease.remaining) :
    exec .leaseUnitComplete s =
      .next { s with lease := { s.lease with remaining := s.lease.remaining - 1, prescaler := some 0 } } := by
  have hheld : s.lease.holder ≠ none := by simp [hh]
  exact congrArg Host.Outcome.next ((if_neg hheld).trans (if_neg (Nat.not_le.2 hmore)))

/-- Log entry 3: without a lease its timer is stopped, and neither event can happen. -/
theorem exec_leaseEvent_unheld {s : State} {c : Instr} (hc : c = .leaseUnitComplete ∨ c = .leaseExpiry)
    (hh : s.lease.holder = none) : exec c s = .next s := by
  rcases hc with rfl | rfl
  · exact congrArg Host.Outcome.next (if_pos hh)
  · refine congrArg Host.Outcome.next ?_
    rw [State.endLease_none s .expired hh]
    exact ite_self s

/-- Settles O37: the last unit and the expiry end the lease as `leaseEnded_endLease` and `State.endLease_notified` say. -/
theorem leaseCountsDownAndExpires : Obligations.LeaseCountsDownAndExpires := by
  intro s c hc
  refine ⟨fun p hh hlast => ?_, fun p hh => exec_leaseUnitComplete_more hh, exec_leaseEvent_unheld hc⟩
  exact ⟨_, exec_leaseEvent_last hc hh hlast, leaseEnded_endLease hh .expired, State.endLease_notified hh .expired,
    State.endLease_snap s .expired, State.endLease_lastServed s .expired, State.endLease_pins s .expired⟩

end Sys2Proof.Machine
end

section
/-!
SUPPORT. The arrival of a frame at a port (R110, R123, R124, R136).
-/
namespace Sys2Proof.Machine

/-! ### The slot that a frame takes (R124) -/

/-- R124: a FREE slot with no FREE one below it is the lowest-numbered FREE slot. -/
theorem Slots.lowestFree_eq_some {v : Slots} {k : SlotNo} (hfree : v.get k = .free)
    (hlower : ∀ j, j ∈ ([SlotNo.a, .b, .c, .d].takeWhile fun i => decide (i ≠ k)) → v.get j ≠ .free) :
    v.lowestFree = some k := by
  have hsplit : ∃ above, [SlotNo.a, .b, .c, .d] =
      ([SlotNo.a, .b, .c, .d].takeWhile fun i => decide (i ≠ k)) ++ k :: above := by
    cases k <;> exact ⟨_, rfl⟩
  obtain ⟨above, habove⟩ := hsplit
  exact List.find?_eq_some_iff_append.2
    ⟨decide_eq_true hfree, _, above, habove, fun j hj => by simpa using hlower j hj⟩

theorem Slots.lowestFree_eq_none {v : Slots} (h : ∀ k, v.get k ≠ .free) : v.lowestFree = none :=
  List.find?_eq_none.2 fun k _ => by simpa using h k

/-! ### The arrival (R110, R124, R136) -/

section
variable {s : State} {p : Port} {r : Request}

/-- R117, R123: a port that no reset holds and that no READ uses takes the frame of a request. -/
theorem exec_frameArrival (hreset : s.pins.resetN = false) (hprst : s.pins.prstN.get p = false)
    (hidle : (s.ports.get p).reading = none) (hbody : r.body.length ≤ 60) :
    exec (.frameArrival p r.frame) s = .next (s.arrive p r) := by
  obtain ⟨hok, hreads⟩ := frame_reads_back r hbody
  have htakes : (s.portTakes p && !r.frame.isEmpty) = true := by
    simp [State.portTakes, State.portHeld, hreset, hprst, hidle, Request.frame, withCrc]
  simp only [exec, execFrameArrival, htakes, hok, hreads, if_true]

/-- R124: a slot becomes QUEUED and joins the end of the arrival order; the counterpart of `PortState.answerSlot`. -/
def PortState.queueSlot (ps : PortState) (k : SlotNo) (r : Request) : PortState :=
  { ps with slots := ps.slots.set k (.queued r), arrival := ps.arrival ++ [k] }

theorem State.refreshLease_eq (s : State) (p : Port) :
    s.refreshLease p = { s with lease := if s.lease.holder = some p then s.lease.restart else s.lease } := by
  unfold State.refreshLease
  split <;> rfl

theorem State.arrive_overrun (h : (s.ports.get p).slots.lowestFree = none) :
    s.arrive p r = s.modifyPort p fun ps => { ps with overrun := satInc255 ps.overrun } := by
  rw [State.arrive, h]

/-- R136: while STARTING the frame is answered as it arrives. -/
theorem State.arrive_starting {k : SlotNo} (h : (s.ports.get p).slots.lowestFree = some k) (hp : s.phase = .starting) :
    s.arrive p r = s.modifyPort p fun ps => ps.answerSlot k (r.reply .notReady []) := by
  rw [State.arrive, h]
  exact if_pos hp

theorem State.arrive_queued {k : SlotNo} (h : (s.ports.get p).slots.lowestFree = some k) (hp : s.phase ≠ .starting) :
    s.arrive p r = (s.modifyPort p fun ps => ps.queueSlot k r).refreshLease p := by
  rw [State.arrive, h]
  exact if_neg hp

end

theorem State.modifyPort_only (s : State) (p : Port) (f : PortState → PortState) :
    (s.modifyPort p f).ports.get p = f (s.ports.get p) ∧
      ∀ q, q ≠ p → (s.modifyPort p f).ports.get q = s.ports.get q :=
  ⟨PerPort.get_set_self .., fun _ hq => PerPort.get_set_other _ _ hq⟩

/-- Settles O38: the frame is taken (`exec_frameArrival`) and is QUEUED, answered NOT_READY or counted as an overrun. -/
theorem frameArrivalFillsASlot : Obligations.FrameArrivalFillsASlot := by
  intro s p r hreset hprst hidle hbody
  rw [exec_frameArrival hreset hprst hidle hbody]
  refine ⟨fun k hfree hlower => ?_, fun hfull => ?_⟩
  · have hlowest := Slots.lowestFree_eq_some hfree hlower
    refine ⟨fun hp => ?_, fun hp => ?_⟩
    · obtain ⟨hself, hothers⟩ := s.modifyPort_only p fun ps => ps.queueSlot k r
      rw [State.arrive_queued hlowest hp, State.refreshLease_eq]
      exact ⟨_, rfl, rfl, hself, hothers, rfl⟩
    · obtain ⟨hself, hothers⟩ := s.modifyPort_only p fun ps => ps.answerSlot k (r.reply .notReady [])
      exact ⟨_, congrArg Host.Outcome.next (State.arrive_starting hlowest hp), rfl, hself, hothers⟩
  · obtain ⟨hself, hothers⟩ := s.modifyPort_only p fun ps => { ps with overrun := satInc255 ps.overrun }
    have hnone := Slots.lowestFree_eq_none hfull
    exact ⟨_, congrArg Host.Outcome.next (State.arrive_overrun hnone), rfl, hself, hothers⟩

end Sys2Proof.Machine
end

section
/-!
SUPPORT. Port resets (R133), ATTACH (R121) and DETACH (R122): what they leave of their own port and of everything else.
-/
namespace Sys2Proof.Machine

/-! ### ATTACH (R121) -/

/-- R14: ATTACH is exempt from the attached check, and neither held to the lease nor refused FROZEN. -/
theorem Granted.admitted_attach {s : State} {p : Port} {k : SlotNo} {r : Request} (h : Granted s p .attach k r) :
    Admitted s p .attach k r where
  granted := h
  attached := fun hne => absurd rfl hne
  lease := fun hmem => absurd hmem (by decide)
  frozen := fun hmem => absurd hmem (by decide)

theorem byteOf_outcomeCode (outcome : StartOutcome) :
    byteOf (outcomeCode (some outcome)) =
      match outcome with | .loadedNewer => (1 : Byte) | .loadedOlder => 2 | .blank => 3 := by
  cases outcome <;> rfl

theorem byteOf_phaseCode {phase : DevicePhase} (h : phase ≠ .starting) :
    byteOf phase.code = if phase = .frozen then (2 : Byte) else 1 := by
  cases phase with
  | starting => exact absurd rfl h
  | running => rfl
  | frozen => rfl

/-- R121, R178: the body of the answer, once start-up has ended. -/
theorem State.serviceAttach_eq {s : State} {outcome : StartOutcome} (p : Port) (hphase : s.phase ≠ .starting)
    (houtcome : s.startup.outcome = some outcome) :
    s.serviceAttach p = (s.modifyPort p fun ps => { ps with attached := true },
      .answer .ok (leBytes 2 0x0464 ++ leBytes 2 1 ++
        [match outcome with | .loadedNewer => (1 : Byte) | .loadedOlder => 2 | .blank => 3] ++
        leBytes 4 s.snap.newestGen ++
        [if s.phase = .frozen then (2 : Byte) else 1, if (s.ports.get p).attached then 1 else 0])) := by
  rw [State.serviceAttach, houtcome, byteOf_outcomeCode, byteOf_phaseCode hphase]
  rfl

/-- Settles O8: the grant passes its checks (`Granted.admitted_attach`), and the service attaches the port and answers as
`State.serviceAttach_eq` says. -/
theorem attachAnswersThePartIdentity : Obligations.AttachAnswersThePartIdentity := by
  intro s p k r outcome hgranted hbody houtcome
  have hnone : bodyNone r.body = some () := by rw [hbody]; rfl
  have hserve := hgranted.admitted_attach.serve bodyNone (fun t _ _ => t.serviceAttach p) hnone
  rw [State.serviceAttach_eq (s := s.beginService p k r) p hgranted.phase houtcome, State.beginService_attached] at hserve
  refine ⟨_, _, congrArg Host.Outcome.next hserve, rfl, rfl, ?_, fun q hq => ?_⟩
  · rw [State.endService_answer_get, if_pos rfl, State.modifyPort_get, if_pos rfl, State.beginService_get, if_pos rfl]
    simp only [PortState.answerSlot, Slots.set_set]
    rfl
  · rw [State.endService_answer_get, if_neg hq, State.modifyPort_get, if_neg hq, State.beginService_get, if_neg hq]

/-! ### What a port reset leaves of its own port (R133) -/

/-- R133 steps 1 to 5, R142: a port reset but for the end of the lease. -/
def State.freePort (s : State) (p : Port) (spared : Option SlotNo) : State :=
  { s.modifyPort p (PortState.resetExcept · spared) with
    snap := { s.snap with waiting := s.snap.waiting.filter fun w => decide (w.port ≠ p) } }

theorem State.resetPort_holder {s : State} {p : Port} (h : s.lease.holder = some p) (spared : Option SlotNo) :
    s.resetPort p spared = (s.freePort p spared).endLease .portReset := if_pos h

theorem State.resetPort_other {s : State} {p : Port} (h : s.lease.holder ≠ some p) (spared : Option SlotNo) :
    s.resetPort p spared = s.freePort p spared := if_neg h

/-- R102, R133: the end of its lease tells the port nothing, since it is already detached. -/
theorem State.resetPort_get_self (s : State) (p : Port) (spared : Option SlotNo) :
    (s.resetPort p spared).ports.get p = (s.ports.get p).resetExcept spared := by
  have hfree : (s.freePort p spared).ports.get p = (s.ports.get p).resetExcept spared := PerPort.get_set_self ..
  by_cases h : s.lease.holder = some p
  · rw [State.resetPort_holder h, State.endLease_get (s.freePort p spared) .portReset h, hfree]
    rfl
  · rw [State.resetPort_other h, hfree]

/-- R122: with its own slot spared, and then answered, a DETACH leaves every other slot FREE. -/
theorem Slots.set_resetExcept_some (v : Slots) (k : SlotNo) (x : Slot) :
    (v.resetExcept (some k)).set k x = Slots.set ⟨.free, .free, .free, .free⟩ k x := by
  cases k <;> rfl

/-! ### What a port reset leaves of everything else (R133, R142) -/

/-- R114, R133, R142: a port reset, in the words of the claims. -/
theorem portResetAround_resetPort (s : State) (p : Port) (spared : Option SlotNo) :
    PortResetAround s (s.resetPort p spared) p := by
  have hothers : ∀ q, q ≠ p → (s.freePort p spared).ports.get q = s.ports.get q :=
    fun q hq => PerPort.get_set_other _ _ hq
  refine ⟨State.resetPort_snap s p spared, fun hheld => ?_, fun hother => ?_⟩
  · rw [State.resetPort_holder hheld]
    refine ⟨leaseEnded_of rfl hheld .portReset, fun q hq => ?_⟩
    rw [endLease_notices (s := s.freePort p spared) hheld, hothers q hq]
    rfl
  · rw [State.resetPort_other hother]
    exact ⟨rfl, rfl, rfl, rfl, rfl, rfl, rfl, rfl, rfl, rfl, rfl, hothers⟩

/-- From s to t nothing changes but the state of port p, the last-served port and the input levels. -/
def PortAlone (s t : State) (p : Port) : Prop :=
  ∃ ports lastServed pins, t = { s with ports := ports, lastServed := lastServed, pins := pins } ∧
    ∀ q, q ≠ p → ports.get q = s.ports.get q

theorem portAlone_modifyPort (s : State) (p : Port) (f : PortState → PortState) : PortAlone s (s.modifyPort p f) p :=
  ⟨_, _, _, rfl, fun _ hq => PerPort.get_set_other _ _ hq⟩

theorem portAlone_beginService (s : State) (p : Port) (k : SlotNo) (r : Request) :
    PortAlone s (s.beginService p k r) p :=
  ⟨_, _, _, rfl, fun _ hq => PerPort.get_set_other _ _ hq⟩

/-- What stands before and after the reset of a port, and changes that port alone, is no part of what the claims say. -/
theorem PortResetAround.of_portAlone {s s' t' t : State} {p : Port} (hbefore : PortAlone s s' p)
    (hreset : PortResetAround s' t' p) (hafter : PortAlone t' t p) : PortResetAround s t p := by
  obtain ⟨ports, lastServed, pins, rfl, hbefore⟩ := hbefore
  obtain ⟨ports', lastServed', pins', rfl, hafter⟩ := hafter
  obtain ⟨hsnap, hholder, hother⟩ := hreset
  refine ⟨hsnap, fun h => ?_, fun h => ?_⟩
  · obtain ⟨⟨hlease, htable, hlines, hrest⟩, hports⟩ := hholder h
    refine ⟨⟨hlease, htable, hlines, hrest⟩, fun q hq => ?_⟩
    rw [← hbefore q hq]
    exact (hafter q hq).trans (hports q hq)
  · obtain ⟨hlease, htable, hurg, hpln, hphase, hpool, haccrual, hlink, hstart, hpend, hfree, hports⟩ := hother h
    exact ⟨hlease, htable, hurg, hpln, hphase, hpool, haccrual, hlink, hstart, hpend, hfree,
      fun q hq => ((hafter q hq).trans (hports q hq)).trans (hbefore q hq)⟩

/-! ### DETACH (R122) -/

/-- Settles O9: within the grant the port is reset but for the DETACH's own slot (`portResetAround_resetPort`), which is
then answered. -/
theorem detachResetsItsPort : Obligations.DetachResetsItsPort := by
  intro s p k r hadm hbody
  have hnone : bodyNone r.body = some () := by rw [hbody]; rfl
  have hserve := hadm.serve bodyNone (fun t k _ => (t.resetPort p (some k), .code .ok)) hnone
  refine ⟨_, congrArg Host.Outcome.next hserve, ?_, ?_, ?_, ?_⟩
  · exact (State.endService_lastServed ..).trans (State.resetPort_lastServed ..)
  · exact (State.endService_pins ..).trans (State.resetPort_pins ..)
  · rw [Reply.code, State.endService_answer_get, if_pos rfl, State.resetPort_get_self, State.beginService_get, if_pos rfl]
    simp only [PortState.resetExcept, PortState.answerSlot, Slots.set_resetExcept_some]
    rfl
  · exact .of_portAlone (portAlone_beginService s p k r) (portResetAround_resetPort _ p (some k))
      (portAlone_modifyPort _ p fun ps => ps.answerSlot k (r.reply .ok []))

/-! ### PRST_N (R133) -/

/-- R117, R133: the part as PRST_N of port p asserts, before the reset of the port: its transaction is abandoned. -/
def State.assertPrst (s : State) (p : Port) : State :=
  { s.modifyPort p fun ps => { ps with reading := none } with
    pins := { s.pins with prstN := s.pins.prstN.set p true } }

theorem exec_portReset (s : State) (p : Port) : exec (.portReset p) s = .next ((s.assertPrst p).resetPort p none) := rfl

theorem portAlone_assertPrst (s : State) (p : Port) : PortAlone s (s.assertPrst p) p :=
  ⟨_, _, _, rfl, fun _ hq => PerPort.get_set_other _ _ hq⟩

/-- R119, R133: the port is as a device reset leaves it. -/
theorem State.resetPort_assertPrst_get (s : State) (p : Port) :
    ((s.assertPrst p).resetPort p none).ports.get p = .reset := by
  rw [State.resetPort_get_self, State.assertPrst, State.modifyPort_get, if_pos rfl]
  rfl

/-- Settles O41: the reset of the port after its transaction is abandoned (`portResetAround_resetPort`); the deassertion
writes the level of PRST_N alone. -/
theorem portResetFreesThePort : Obligations.PortResetFreesThePort := by
  intro s p
  have hget := s.resetPort_assertPrst_get p
  refine ⟨⟨_, exec_portReset s p, ?_, ?_, ?_, fun q hq => ?_, hget, ?_, ?_⟩, ⟨_, rfl, rfl, rfl, ?_, fun q hq => ?_⟩⟩
  · rw [State.resetPort_lastServed]; rfl
  · rw [State.resetPort_pins]; rfl
  · rw [State.resetPort_pins]; exact PerPort.get_set_self ..
  · rw [State.resetPort_pins]; exact PerPort.get_set_other _ _ hq
  · rw [State.atnAsserted, hget]; rfl
  · exact .of_portAlone (portAlone_assertPrst s p) (portResetAround_resetPort _ p none) ⟨_, _, _, rfl, fun _ _ => rfl⟩
  · exact PerPort.get_set_self ..
  · exact PerPort.get_set_other _ _ hq

end Sys2Proof.Machine
end

section
/-!
SUPPORT. Whole transactions on a port's wires (R117, R118, R179), and those that carry no request (R123, R132, R180).
-/
namespace Sys2Proof.Machine

/-! ### From levels to bytes (R117) -/

/-- R117: the bits after the last whole byte are ignored. -/
theorem bytesOfBits_short {bits : List Bool} (h : bits.length < 8) : bytesOfBits bits = [] := by
  unfold bytesOfBits
  split
  · simp only [List.length_cons] at h
    omega
  · rfl

/-- R117: the bytes of a train, with a part of a byte after them, are those of the train. -/
theorem bytesOfBits_train (train : List Byte) {extra : List Bool} (h : extra.length < 8) :
    bytesOfBits (train.flatMap bitsOfByte ++ extra) = train := by
  induction train with
  | nil => exact bytesOfBits_short h
  | cons b train ih => rw [List.flatMap_cons, List.append_assoc, bytesOfBits_bitsOfByte_append, ih]

/-- R117: whole SCK periods give the levels of SDI in their high halves. -/
theorem risingSamples_periods (sdi : List (Bool × Bool)) : risingSamples false (sckLevels sdi) = sdi.map Prod.snd := by
  simpa [risingSamples] using risingSamples_sckLevels sdi false []

theorem transactionOfLevels_sckLevels (p : Port) (sdi : List (Bool × Bool)) :
    transactionOfLevels p (sckLevels sdi) = transactionOfBits p (sdi.map Prod.snd) :=
  congrArg (transactionOfBits p) (risingSamples_periods sdi)

theorem transactionOfBits_train (p : Port) (train : List Byte) {extra : List Bool} (h : extra.length < 8) :
    transactionOfBits p (train.flatMap bitsOfByte ++ extra) = transactionCommands p train :=
  congrArg (transactionCommands p) (bytesOfBits_train train h)

/-! ### The checks on a frame (R123, R180) -/

theorem frameOk_iff (bytes : List Byte) :
    frameOk bytes = true ↔ bytes.length ≤ 64 ∧ 4 ≤ bytes.length ∧ (bytes.headD 0).toNat = bytes.length ∧
      crc8 bytes.dropLast = bytes.getLastD 0 := by
  simp only [frameOk, Bool.and_eq_true, decide_eq_true_eq, and_assoc]
  rfl

/-- R123, R180: each of the checks refuses a frame by itself. -/
theorem frameOk_eq_false {bytes : List Byte}
    (h : 64 < bytes.length ∨ bytes.length < 4 ∨ (∃ b ∈ bytes.head?, b.toNat ≠ bytes.length) ∨
      ∃ body last, bytes = body ++ [last] ∧ crc8 body ≠ last) : frameOk bytes = false := by
  rw [Bool.eq_false_iff]
  intro hok
  obtain ⟨hmax, hmin, hlength, hcrc⟩ := (frameOk_iff bytes).1 hok
  rcases h with hlong | hshort | ⟨b, hb, hne⟩ | ⟨body, last, rfl, hne⟩
  · omega
  · omega
  · rw [List.headD_eq_head?_getD, Option.mem_def.1 hb] at hlength
    exact hne hlength
  · rw [List.dropLast_concat, List.getLastD_concat] at hcrc
    exact hne hcrc

/-! ### Transactions that carry no request (R117, R118, R132) -/

section
variable {s : State} {p : Port}

/-- R117: a port takes a transaction while no reset holds it and no READ is in progress. -/
theorem State.portTakes_iff :
    s.portTakes p = true ↔
      s.pins.resetN = false ∧ s.pins.prstN.get p = false ∧ (s.ports.get p).reading = none := by
  simp [State.portTakes, State.portHeld, and_assoc]

theorem State.portHeld_iff : s.portHeld p = true ↔ s.pins.resetN = true ∨ s.pins.prstN.get p = true := by
  simp [State.portHeld]

theorem State.portTakes_held (h : s.pins.resetN = true ∨ s.pins.prstN.get p = true) : s.portTakes p = false := by
  simp [State.portTakes, State.portHeld_iff.2 h]

theorem exec_frameArrival_bad {bytes : List Byte} (htakes : s.portTakes p = true) (hne : bytes ≠ [])
    (hbad : frameOk bytes = false) : exec (.frameArrival p bytes) s = .next (s.countBadFrame p) := by
  simp [exec, execFrameArrival, htakes, hne, hbad]

theorem exec_frameArrival_empty (s : State) (p : Port) : exec (.frameArrival p []) s = .next s := by
  simp [exec, execFrameArrival]

theorem exec_invalidSelectEnd (htakes : s.portTakes p = true) :
    exec (.invalidSelectEnd p) s = .next (s.countBadFrame p) :=
  congrArg Host.Outcome.next (if_pos htakes)

/-- R132: a count of one bad frame changes nothing else. -/
theorem State.countBadFrame_only (s : State) (p : Port) :
    s.countBadFrame p = { s with ports := (s.countBadFrame p).ports } ∧
      (s.countBadFrame p).ports.get p =
        { s.ports.get p with badFrame := min ((s.ports.get p).badFrame + 1) 255 } ∧
      ∀ q, q ≠ p → (s.countBadFrame p).ports.get q = s.ports.get q :=
  ⟨rfl, s.modifyPort_only p fun ps => { ps with badFrame := satInc255 ps.badFrame }⟩

/-- R117: a port held by a reset takes nothing. -/
theorem exec_transaction_held {c : Instr} {bytes : List Byte} (hheld : s.portTakes p = false)
    (hc : c ∈ [Instr.frameArrival p bytes, .invalidSelectEnd p, .readSelect p]) : exec c s = .next s := by
  simp only [List.mem_cons, List.not_mem_nil, or_false] at hc
  rcases hc with rfl | rfl | rfl
  · simp [exec, execFrameArrival, hheld]
  · simp [exec, execInvalidSelectEnd, hheld]
  · simp [exec, execReadSelect, hheld]

end

/-! ### The select byte (R179) -/

theorem transactionCommands_write (p : Port) (bytes : List Byte) :
    transactionCommands p (0xA5 :: bytes) = [.frameArrival p bytes] := rfl

theorem transactionCommands_read (p : Port) (bytes : List Byte) :
    transactionCommands p (0x5A :: bytes) = [.readSelect p, .readEnd p bytes.length] := rfl

theorem transactionCommands_invalid (p : Port) {sel : Byte} (hwrite : sel ≠ 0xA5) (hread : sel ≠ 0x5A)
    (bytes : List Byte) : transactionCommands p (sel :: bytes) = [.invalidSelectEnd p] :=
  (if_neg hwrite).trans (if_neg hread)

/-- Settles O39: a bad frame and an invalid select byte count (`State.countBadFrame_only`), a held port takes nothing
(`exec_transaction_held`), and levels, bits and bytes spell the same transaction. -/
theorem unusableTransactionsAreCounted : Obligations.UnusableTransactionsAreCounted := by
  intro s p bytes
  refine ⟨fun hreset hprst hidle => ?_, fun hheld c hc => exec_transaction_held (State.portTakes_held hheld) hc, rfl,
    transactionCommands_write p bytes, transactionCommands_read p bytes,
    fun sel hwrite hread => transactionCommands_invalid p hwrite hread bytes,
    fun train extra hshort => transactionOfBits_train p train hshort, transactionOfLevels_sckLevels p⟩
  have htakes := State.portTakes_iff.2 ⟨hreset, hprst, hidle⟩
  exact ⟨fun hne hbad => ⟨_, exec_frameArrival_bad htakes hne (frameOk_eq_false hbad), s.countBadFrame_only p⟩,
    ⟨_, exec_invalidSelectEnd htakes, s.countBadFrame_only p⟩, exec_frameArrival_empty s p⟩

end Sys2Proof.Machine
end

section
/-!
SUPPORT. READ transactions (R128 to R130): what the select byte fixes, what the end of the transaction consumes, and what SDO
drives in between (R117, R118).
-/
namespace Sys2Proof.Machine

/-! ### The bytes of an answer frame (R179, R182) -/

theorem Answer.frame_eq (a : Answer) :
    a.frame = withCrc ([byteOf (a.body.length + 5), a.tag, a.code, byteOf a.result.code] ++ a.body) := rfl

/-- R182: the result codes as bytes. -/
theorem byteOf_resultCode (result : ResultCode) :
    byteOf result.code = match result with
      | .ok => 0x00 | .notReady => 0x01 | .notAttached => 0x02 | .badRequest => 0x03 | .noSuchIndicator => 0x10
      | .exists_ => 0x11 | .tableFull => 0x12 | .poolShort => 0x13 | .outOfRange => 0x14 | .fixedField => 0x15
      | .notWriter => 0x16 | .notReportable => 0x17 | .notHolder => 0x20 | .heldElsewhere => 0x21 | .frozen => 0x22
      | .watchFull => 0x23 | .badSequence => 0x24 | .conditionPresent => 0x25 | .snapshotFailed => 0x26 := by
  cases result <;> rfl

/-! ### The READ select byte (R128, R130) -/

/-- R130: the status header without its CRC. -/
def State.statusBytes (s : State) (p : Port) : List Byte :=
  [(match s.phase with | .starting => 0 | .running => 1 | .frozen => 2),
   if (s.ports.get p).attached then 1 else 0, byteOf (s.ports.get p).slotsInUse,
   byteOf (s.ports.get p).answersReady, byteOf (s.ports.get p).notices.queue.length,
   byteOf ((s.ports.get p).notices.queue.filter fun n => !n.delivered).length,
   if (s.ports.get p).notices.lost then 1 else 0, byteOf (s.ports.get p).overrun,
   byteOf (s.ports.get p).badFrame, (match s.lease.holder with | none => 0xFF | some q => byteOf (portCode q)),
   if s.lease.holder = some p then byteOf s.lease.remaining else 0]

theorem byteOf_phase (phase : DevicePhase) :
    byteOf phase.code = match phase with | .starting => 0 | .running => 1 | .frozen => 2 := by
  cases phase <;> rfl

theorem byteOf_holderCode (holder : Option Port) :
    byteOf (holderCode holder) = match holder with | none => 0xFF | some q => byteOf (portCode q) := by
  cases holder <;> rfl

theorem State.statusHeader_eq (s : State) (p : Port) : s.statusHeader p = withCrc (s.statusBytes p) := by
  have hremaining : byteOf (if s.lease.holder = some p then s.lease.remaining else 0) =
      if s.lease.holder = some p then byteOf s.lease.remaining else 0 := apply_ite byteOf _ _ _
  simp only [State.statusHeader, State.statusBytes, byteList, List.map_cons, List.map_nil, byteOf_phase, byteOf_toNat_flag,
    byteOf_holderCode, hremaining, NoticeUnit.undelivered]

/-- R130: 11 bytes and their CRC. -/
theorem State.statusHeader_layout (s : State) (p : Port) :
    (s.statusHeader p).length = 12 ∧ (s.statusHeader p).take 11 = s.statusBytes p ∧
      (s.statusHeader p).drop 11 = [crc8 (s.statusBytes p)] := by
  have hlength : (s.statusBytes p).length = 11 := rfl
  rw [State.statusHeader_eq]
  exact ⟨withCrc_length _, List.take_left' hlength, List.drop_left' hlength⟩

theorem PortState.headAnswer_nil {ps : PortState} (h : ps.answers = []) : ps.headAnswer = none := by
  rw [PortState.headAnswer, h]

theorem PortState.headAnswer_cons {ps : PortState} {k : SlotNo} {rest : List SlotNo} {a : Answer}
    (h : ps.answers = k :: rest) (hslot : ps.slots.get k = .answered a) : ps.headAnswer = some (k, a) := by
  simp only [PortState.headAnswer, h, hslot]

/-- R128: the bytes on SDO: what is fixed, then fill bytes. -/
theorem ReadTransaction.sdo_eq (x : ReadTransaction) (n : Nat) :
    x.sdo n = (x.header ++ (match x.answer with | none => [] | some y => y.2.frame) ++ List.replicate n 0).take n := by
  unfold ReadTransaction.sdo
  cases x.answer <;> rfl

theorem exec_readSelect {s : State} {p : Port} (htakes : s.portTakes p = true) :
    exec (.readSelect p) s = .next (s.modifyPort p fun ps => { ps with reading := some (s.readTransaction p) }) :=
  congrArg Host.Outcome.next (if_pos htakes)

/-! ### The end of a READ (R129) -/

section
variable {ps : PortState} {x : ReadTransaction} {k : SlotNo} {a : Answer} {clocked : Nat}

/-- R129: all bytes of the answer were clocked out, and its slot still holds it. -/
theorem PortState.endRead_consumed (hreading : ps.reading = some x) (hanswer : x.answer = some (k, a))
    (hslot : ps.slots.get k = .answered a) (hall : x.header.length + (a.body.length + 5) ≤ clocked) :
    ps.endRead clocked = { ps with
      reading := none, slots := ps.slots.set k .free, answers := ps.answers.filter fun j => decide (j ≠ k) } := by
  rw [← Answer.frame_length] at hall
  simp only [PortState.endRead, hreading, hanswer]
  exact if_pos ⟨hall, hslot⟩

/-- R129: no answer was fixed, or it is not consumed. -/
theorem PortState.endRead_kept (hreading : ps.reading = some x)
    (h : ∀ k a, x.answer = some (k, a) → ps.slots.get k ≠ .answered a ∨
      clocked < x.header.length + (a.body.length + 5)) : ps.endRead clocked = { ps with reading := none } := by
  cases hanswer : x.answer with
  | none => simp only [PortState.endRead, hreading, hanswer]
  | some y =>
    obtain ⟨k, a⟩ := y
    have hkeeps : ¬ (x.header.length + a.frame.length ≤ clocked ∧ ps.slots.get k = .answered a) := by
      rintro ⟨hall, hslot⟩
      rw [Answer.frame_length] at hall
      rcases h k a hanswer with hother | hfew
      · exact hother hslot
      · omega
    simp only [PortState.endRead, hreading, hanswer]
    exact if_neg hkeeps

end

/-! ### The bits that SDO drives (R117, R118, R128) -/

/-- R128: each byte after the select byte is a fixed one, or a fill byte. -/
theorem padTo_getElem? {i n : Nat} (h : i < n) (bs : List Byte) : (padTo n bs)[i]? = some (bs.getD i 0) := by
  rw [padTo, List.getElem?_take_of_lt h, List.getD_eq_getElem?_getD]
  by_cases hi : i < bs.length
  · rw [List.getElem?_append_left hi, List.getElem?_eq_getElem hi, Option.getD_some]
  · have hfill : i - bs.length < n := by omega
    rw [List.getElem?_append_right (Nat.not_lt.1 hi), zeros, List.getElem?_replicate_of_lt hfill,
      List.getElem?_eq_none (Nat.not_lt.1 hi), Option.getD_none]

/-- R118, R128: what follows the select byte does not depend on how far the transaction has come. -/
theorem State.sdoAfterSelect_getElem? (s : State) (p : Port) (sel : Byte) {i m n : Nat} (hm : i < m) (hn : i < n) :
    (s.sdoAfterSelect p sel m)[i]? = (s.sdoAfterSelect p sel n)[i]? := by
  unfold State.sdoAfterSelect
  split
  · rw [ReadTransaction.sdo, ReadTransaction.sdo, padTo_getElem? hm, padTo_getElem? hn]
  · rw [zeros, zeros, List.getElem?_replicate_of_lt hm, List.getElem?_replicate_of_lt hn]

/-- R117: bit i of a train of bytes stands in byte i / 8. -/
theorem getElem?_flatMap_bitsOfByte (bytes : List Byte) (i : Nat) :
    (bytes.flatMap bitsOfByte)[i]? = bytes[i / 8]?.bind fun b => (bitsOfByte b)[i % 8]? := by
  induction bytes generalizing i with
  | nil => simp
  | cons b bytes ih =>
    rw [List.flatMap_cons]
    by_cases h : i < 8
    · rw [List.getElem?_append_left h, Nat.div_eq_of_lt h, Nat.mod_eq_of_lt h]
      rfl
    · have hdiv : i / 8 = (i - 8) / 8 + 1 := by omega
      have hmod : i % 8 = (i - 8) % 8 := by omega
      rw [List.getElem?_append_right (Nat.not_lt.1 h), bitsOfByte_length, ih, hdiv, hmod, List.getElem?_cons_succ]

theorem bytesOfBits_long {bits : List Bool} (h : 8 ≤ bits.length) :
    ∃ rest, bytesOfBits bits = byteOfBits (bits.take 8) :: rest := by
  match bits, h with
  | b7 :: b6 :: b5 :: b4 :: b3 :: b2 :: b1 :: b0 :: bits, _ => exact ⟨bytesOfBits bits, rfl⟩

section
variable (s : State) (p : Port)

/-- Log entry 24: the first eight bits of SDO are those of a free value, whatever SDI carries. -/
theorem State.sdoStream_selecting (sdi : List Bool) {n count : Nat} (hn : n < 8) (hcount : n < count) :
    (s.sdoStream p sdi count)[n]? = (bitsOfByte (Config.sdoWhileSelecting s.freeIndex))[n]? := by
  rw [State.sdoStream, List.getElem?_take_of_lt hcount, List.flatMap_cons, List.getElem?_append_left hn]

theorem State.sdoStream_of_bytes {sdi : List Bool} {sel : Byte} {rest : List Byte} (h : bytesOfBits sdi = sel :: rest)
    (count : Nat) :
    s.sdoStream p sdi count =
      ((Config.sdoWhileSelecting s.freeIndex :: s.sdoAfterSelect p sel (count / 8)).flatMap bitsOfByte).take count := by
  simp only [State.sdoStream, h]

/-- R117: the bits after the first eight are those of the bytes that follow the select byte. -/
theorem State.sdoStream_selected {sdi : List Bool} {n count : Nat} (hsdi : 8 ≤ sdi.length) (hn : 8 ≤ n)
    (hcount : n < count) :
    (s.sdoStream p sdi count)[n]? =
      (s.sdoAfterSelect p (byteOfBits (sdi.take 8)) (count / 8))[n / 8 - 1]?.bind fun b => (bitsOfByte b)[n % 8]? := by
  obtain ⟨rest, hbytes⟩ := bytesOfBits_long hsdi
  have hdiv : n / 8 = n / 8 - 1 + 1 := by omega
  rw [State.sdoStream_of_bytes s p hbytes, List.getElem?_take_of_lt hcount, getElem?_flatMap_bitsOfByte, hdiv,
    List.getElem?_cons_succ, ← hdiv]

/-- R117: what SDO drives in SCK period n is settled by the bits taken in the periods before it. -/
theorem State.sdoStream_take {bits : List Bool} {n m : Nat} (hn : n < bits.length) (hm : n ≤ m) :
    (s.sdoStream p (bits.take m) (n + 1))[n]? = (s.sdoBits p bits)[n]? := by
  unfold State.sdoBits
  by_cases hsel : n < 8
  · rw [State.sdoStream_selecting s p _ hsel (Nat.lt_succ_self n), State.sdoStream_selecting s p _ hsel hn]
  · have hlong : 8 ≤ (bits.take m).length := by rw [List.length_take]; omega
    have hselect : (bits.take m).take 8 = bits.take 8 := by rw [List.take_take, Nat.min_eq_left (by omega)]
    rw [State.sdoStream_selected s p hlong (by omega) (Nat.lt_succ_self n),
      State.sdoStream_selected s p (by omega) (by omega) hn, hselect,
      State.sdoAfterSelect_getElem? s p _ (m := (n + 1) / 8) (n := bits.length / 8) (by omega) (by omega)]

end

/-! ### SDO at one moment (R117) -/

theorem State.sdo_driven {s : State} {p : Port} (h : s.portHeld p = false) (levels : List (Bool × Bool)) :
    s.sdo p (some levels) =
      (s.sdoStream p (risingSamples false levels) (fallingEdges false (levels.map Prod.fst) + 1))[
        fallingEdges false (levels.map Prod.fst)]? := by
  simp only [State.sdo, h, Bool.false_eq_true, if_false]

theorem State.sdo_outside (s : State) (p : Port) : s.sdo p none = none := ite_self none

/-- R117: in the low half of a period SCK has fallen once for each period before it. -/
theorem fallingEdges_low (sdi : List (Bool × Bool)) (x : Bool) :
    fallingEdges false ((sckLevels sdi ++ [(false, x)]).map Prod.fst) = sdi.length := by
  cases sdi with
  | nil => rfl
  | cons y sdi => rw [List.map_append, fallingEdges_sckLevels]; simp [fallingEdges]

/-- R117: in the high half of a period SCK has not fallen again. -/
theorem fallingEdges_high (y : Bool × Bool) (sdi : List (Bool × Bool)) :
    fallingEdges false ((sckLevels (y :: sdi)).map Prod.fst) = sdi.length := by
  simpa [fallingEdges] using fallingEdges_sckLevels y sdi false []

section
variable {s : State} {p : Port} {sdi : List (Bool × Bool)} {n : Nat}

theorem State.sdo_low (hfree : s.portHeld p = false) (hn : n < sdi.length) (x : Bool) :
    s.sdo p (some (sckLevels (sdi.take n) ++ [(false, x)])) = (s.sdoBits p (sdi.map Prod.snd))[n]? := by
  have hsamples : risingSamples false (sckLevels (sdi.take n) ++ [(false, x)]) = (sdi.map Prod.snd).take n := by
    rw [risingSamples_sckLevels, List.map_take]
    simp [risingSamples]
  have hfalls : fallingEdges false ((sckLevels (sdi.take n) ++ [(false, x)]).map Prod.fst) = n := by
    rw [fallingEdges_low, List.length_take, Nat.min_eq_left (Nat.le_of_lt hn)]
  rw [State.sdo_driven hfree, hsamples, hfalls, State.sdoStream_take s p (by simpa using hn) (Nat.le_refl n)]

theorem State.sdo_high (hfree : s.portHeld p = false) (hn : n < sdi.length) :
    s.sdo p (some (sckLevels (sdi.take (n + 1)))) = (s.sdoBits p (sdi.map Prod.snd))[n]? := by
  have hsamples : risingSamples false (sckLevels (sdi.take (n + 1))) = (sdi.map Prod.snd).take (n + 1) := by
    rw [risingSamples_periods, List.map_take]
  have hfalls : fallingEdges false ((sckLevels (sdi.take (n + 1))).map Prod.fst) = n := by
    cases sdi with
    | nil => cases hn
    | cons y sdi => rw [List.take_succ_cons, fallingEdges_high, List.length_take, Nat.min_eq_left (Nat.lt_succ_iff.1 hn)]
  rw [State.sdo_driven hfree, hsamples, hfalls, State.sdoStream_take s p (by simpa using hn) n.le_succ]

end

/-! ### SDO in a whole transaction (R117, R118, R128) -/

section
variable {s : State} {p : Port} {extra : List Bool}

theorem State.sdoBits_short (h : extra.length < 8) :
    s.sdoBits p extra = (bitsOfByte (Config.sdoWhileSelecting s.freeIndex)).take extra.length := by
  simp only [State.sdoBits, State.sdoStream, bytesOfBits_short h, List.flatMap_cons, List.flatMap_nil, List.append_nil]

theorem State.sdoBits_train (h : extra.length < 8) (sel : Byte) (bytes : List Byte) :
    s.sdoBits p ((sel :: bytes).flatMap bitsOfByte ++ extra) =
      ((Config.sdoWhileSelecting s.freeIndex :: s.sdoAfterSelect p sel (sel :: bytes).length).flatMap bitsOfByte).take
        (8 * (sel :: bytes).length + extra.length) := by
  have hcount : ((sel :: bytes).flatMap bitsOfByte ++ extra).length = 8 * (sel :: bytes).length + extra.length := by
    rw [List.length_append, flatMap_bitsOfByte_length]
  have hbytes : (8 * (sel :: bytes).length + extra.length) / 8 = (sel :: bytes).length := by omega
  rw [State.sdoBits, State.sdoStream_of_bytes s p (bytesOfBits_train _ h), hcount, hbytes]

theorem State.sdoAfterSelect_fill {sel : Byte} (h : sel ≠ 0x5A) (n : Nat) :
    s.sdoAfterSelect p sel n = List.replicate n 0 := if_neg h

/-- R128: from the select byte on a READ drives what that byte fixes. -/
theorem State.sdoAfterSelect_read {t : State} {x : ReadTransaction} (htakes : s.portTakes p = true)
    (hexec : exec (.readSelect p) s = .next t) (hx : (t.ports.get p).reading = some x) (n : Nat) :
    s.sdoAfterSelect p 0x5A n = x.sdo n := by
  obtain ⟨-, -, hidle⟩ := State.portTakes_iff.1 htakes
  rw [exec_readSelect htakes] at hexec
  cases hexec
  rw [State.modifyPort_get, if_pos rfl] at hx
  cases hx
  rw [State.sdoAfterSelect, if_pos rfl, hidle, Option.getD_none]

end

/-- Settles O40: the select byte fixes `State.readTransaction` (`State.statusHeader_layout`, `PortState.headAnswer_cons`), the
end consumes by `PortState.endRead_consumed` and `PortState.endRead_kept`, and SDO follows `State.sdoBits`. -/
theorem readTransactionDeliversTheHeadAnswer : Obligations.ReadTransactionDeliversTheHeadAnswer := by
  refine ⟨fun a front hfront => ?_, fun s p => ⟨fun hreset hprst hidle => ?_, fun x clocked hreading => ?_,
    s.sdo_outside p, fun hheld levels => State.sdo_held (State.portHeld_iff.2 hheld) levels,
    fun hreset hprst sdi n x hn => ?_, Config.sdoWhileSelecting s.freeIndex, fun train extra hshort =>
      ⟨fun _ => State.sdoBits_short hshort, ?_⟩⟩⟩
  · rw [hfront, Answer.frame_eq, byteOf_resultCode]
    rfl
  · have htakes := State.portTakes_iff.2 ⟨hreset, hprst, hidle⟩
    obtain ⟨hself, hothers⟩ := s.modifyPort_only p fun ps => { ps with reading := some (s.readTransaction p) }
    obtain ⟨hlength, htake, hdrop⟩ := s.statusHeader_layout p
    refine ⟨_, s.readTransaction p, exec_readSelect htakes, rfl, hself, hothers, hlength, htake, ?_,
      PortState.headAnswer_nil, fun k rest a => PortState.headAnswer_cons, ReadTransaction.sdo_eq _⟩
    exact hdrop.trans (congrArg (fun bytes => [crc8 bytes]) htake.symm)
  · obtain ⟨hself, hothers⟩ := s.modifyPort_only p (PortState.endRead clocked)
    exact ⟨_, rfl, rfl, hothers,
      fun k a hanswer hslot hall => hself.trans (PortState.endRead_consumed hreading hanswer hslot hall),
      fun hkept => hself.trans (PortState.endRead_kept hreading hkept)⟩
  · have hfree : s.portHeld p = false := by simp [State.portHeld, hreset, hprst]
    exact ⟨State.sdo_low hfree hn x, State.sdo_high hfree hn⟩
  · rintro sel bytes rfl
    rw [State.sdoBits_train hshort]
    refine ⟨fun hsel => by rw [State.sdoAfterSelect_fill hsel], ?_⟩
    rintro rfl hreset hprst hidle t x hexec hx
    rw [State.sdoAfterSelect_read (State.portTakes_iff.2 ⟨hreset, hprst, hidle⟩) hexec hx]

end Sys2Proof.Machine
end

section
/-!
SUPPORT. The decoders of request codes, frames and bodies read back what the encoders wrote (R123, R179, R182 to R185).
-/
namespace Sys2Proof.Machine

/-! ### Request codes (R182) -/

/-- R182: the code byte of a request; `requestOf_iff` ties it to the part's own reading. -/
def RequestCode.byte : RequestCode → Byte
  | .attach => 0x01
  | .detach => 0x02
  | .define => 0x10
  | .amend => 0x11
  | .retire => 0x12
  | .renew => 0x13
  | .describe => 0x14
  | .list => 0x15
  | .clear => 0x16
  | .override => 0x17
  | .report => 0x20
  | .watch => 0x30
  | .unwatch => 0x31
  | .fetch => 0x32
  | .ack => 0x33
  | .claim => 0x40
  | .release => 0x41
  | .save => 0x50
  | .settings => 0x51

theorem requestOf_byte (c : RequestCode) : requestOf c.byte = some c := by cases c <;> rfl

/-- R182: no two bytes select the same request. -/
theorem eq_byte_of_requestOf {code : Byte} {c : RequestCode} (h : requestOf code = some c) : code = c.byte := by
  unfold requestOf at h
  apply BitVec.eq_of_toNat_eq
  split at h <;> cases h
  all_goals assumption

theorem requestOf_iff (code : Byte) (c : RequestCode) : requestOf code = some c ↔ code = c.byte :=
  ⟨eq_byte_of_requestOf, fun h => h ▸ requestOf_byte c⟩

/-! ### Numbers and fields behind a mask (R178, R184) -/

/-- R178: w bytes at the head of a body spell the number they were made from. -/
theorem takeNumber_leBytes {w n : Nat} (h : n < 256 ^ w) (rest : List Byte) :
    takeNumber w (leBytes w n ++ rest) = some (n, rest) := by
  have hlong : ¬ (leBytes w n ++ rest).length < w := by simp
  have htake : (leBytes w n ++ rest).take w = leBytes w n := List.take_left' (leBytes_length w n)
  have hdrop : (leBytes w n ++ rest).drop w = rest := List.drop_left' (leBytes_length w n)
  rw [takeNumber, if_neg hlong, htake, hdrop, leNat_leBytes_of_lt h]

/-- R184: a field reads back as it was, present or absent. -/
theorem takeField_encodeNumber {w : Nat} {v : Option Nat} (h : ∀ n ∈ v, n < 256 ^ w) (rest : List Byte) :
    takeField v.isSome w (encodeNumber w v ++ rest) = some (v, rest) := by
  cases v with
  | none => rfl
  | some n => simp [takeField, encodeNumber, takeNumber_leBytes (h n rfl)]

/-- R185: a label at the end of a body reads back as it was. -/
theorem takeLabel_encodeLabel {l : Option (List Byte)} (h : ∀ x ∈ l, x.length < 256) :
    takeLabel l.isSome (encodeLabel l) = some (l, []) := by
  cases l with
  | none => rfl
  | some x =>
    have hlength : (byteOf x.length).toNat = x.length := by rw [byteOf_toNat, Nat.mod_eq_of_lt (h x rfl)]
    simp [takeLabel, encodeLabel, hlength]

/-! ### The presence mask (R184) -/

/-- R184: the flags whose bits the mask holds, from bit 0 upwards. -/
def Fields.flags (f : Fields) : List Bool :=
  [f.kind.isSome, f.cls.isSome, f.gate.isSome, f.writers.isSome, f.budget.isSome, f.nominal.isSome, f.minExposure.isSome,
   f.epochSize.isSome, f.depth.isSome, f.trip.isSome, f.hyst.isSome, f.label.isSome]

/-- A number built bit by bit, least significant first. -/
def numberOfBits : List Bool → Nat
  | [] => 0
  | b :: bits => b.toNat + 2 * numberOfBits bits

theorem testBit_numberOfBits (bits : List Bool) (i : Nat) : (numberOfBits bits).testBit i = bits.getD i false := by
  induction bits generalizing i with
  | nil => exact Nat.zero_testBit i
  | cons b bits ih =>
    have hb := Bool.toNat_le b
    cases i with
    | zero =>
      have hmod : numberOfBits (b :: bits) % 2 = b.toNat := by rw [numberOfBits]; omega
      rw [Nat.testBit_zero, hmod, List.getD_cons_zero]
      cases b <;> rfl
    | succ i =>
      have hdiv : numberOfBits (b :: bits) / 2 = numberOfBits bits := by rw [numberOfBits]; omega
      rw [Nat.testBit_succ, hdiv, ih, List.getD_cons_succ]

theorem numberOfBits_lt (bits : List Bool) : numberOfBits bits < 2 ^ bits.length := by
  induction bits with
  | nil => exact Nat.one_pos
  | cons b bits ih =>
    have hb := Bool.toNat_le b
    rw [numberOfBits, List.length_cons, Nat.pow_succ]
    omega

theorem Fields.mask_eq (f : Fields) : f.mask = numberOfBits f.flags := by
  simp only [Fields.mask, Fields.flags, numberOfBits]
  omega

theorem Fields.testBit_mask (f : Fields) (i : Nat) : f.mask.testBit i = f.flags.getD i false := by
  rw [Fields.mask_eq, testBit_numberOfBits]

theorem Fields.mask_lt (f : Fields) : f.mask < 4096 := by
  have hlength : f.flags.length = 12 := rfl
  have hlt := numberOfBits_lt f.flags
  rw [hlength, ← Fields.mask_eq] at hlt
  omega

/-! ### The bodies of DEFINE and AMEND (R183, R184) -/

/-- R184, R185: the fields fit the bytes that carry them. -/
structure Fields.Fit (f : Fields) : Prop where
  bytes : ∀ v ∈ [f.kind, f.cls, f.gate, f.writers, f.depth, f.trip, f.hyst], ∀ n ∈ v, n < 256 ^ 1
  words : ∀ v ∈ [f.budget, f.nominal, f.minExposure, f.epochSize], ∀ n ∈ v, n < 256 ^ 4
  label : ∀ l ∈ f.label, l.length < 256

/-- R184: one field of a body, read under its bit of the mask, and what is done with it. -/
theorem bind_takeField {w : Nat} {v : Option Nat} (h : ∀ n ∈ v, n < 256 ^ w) {present : Bool} (hbit : present = v.isSome)
    {rest : List Byte} (k : Option Nat × List Byte → Option β) :
    (takeField present w (encodeNumber w v ++ rest) >>= k) = k (v, rest) := by
  rw [hbit, takeField_encodeNumber h]
  rfl

theorem bind_takeLabel {l : Option (List Byte)} (h : ∀ x ∈ l, x.length < 256) {present : Bool}
    (hbit : present = l.isSome)
    (k : Option (List Byte) × List Byte → Option β) :
    (takeLabel present (encodeLabel l) >>= k) = k (l, []) := by
  rw [hbit, takeLabel_encodeLabel h]
  rfl

/-- R184: the fields behind the mask read back one after the other. -/
theorem decodeFields_bytes {f : Fields} (h : f.Fit) : decodeFields f.mask f.bytes = some f := by
  obtain ⟨hbytes, hwords, hlabel⟩ := h
  simp only [List.forall_mem_cons, List.not_mem_nil, false_implies, implies_true, and_true] at hbytes hwords
  obtain ⟨hkind, hcls, hgate, hwriters, hdepth, htrip, hhyst⟩ := hbytes
  obtain ⟨hbudget, hnominal, hexposure, hepoch⟩ := hwords
  have hmask : ¬ 4096 ≤ f.mask := Nat.not_le.2 f.mask_lt
  rw [decodeFields, if_neg hmask]
  exact (bind_takeField hkind (f.testBit_mask 0) _).trans <|
    (bind_takeField hcls (f.testBit_mask 1) _).trans <|
    (bind_takeField hgate (f.testBit_mask 2) _).trans <|
    (bind_takeField hwriters (f.testBit_mask 3) _).trans <|
    (bind_takeField hbudget (f.testBit_mask 4) _).trans <|
    (bind_takeField hnominal (f.testBit_mask 5) _).trans <|
    (bind_takeField hexposure (f.testBit_mask 6) _).trans <|
    (bind_takeField hepoch (f.testBit_mask 7) _).trans <|
    (bind_takeField hdepth (f.testBit_mask 8) _).trans <|
    (bind_takeField htrip (f.testBit_mask 9) _).trans <|
    (bind_takeField hhyst (f.testBit_mask 10) _).trans <|
    bind_takeLabel hlabel (f.testBit_mask 11) _

theorem bodyFields_encodeFieldsBody {id : Nat} {f : Fields} (hid : id < 256) (hf : f.Fit) :
    bodyFields (encodeFieldsBody id f) = some (id, f) := by
  have hmask : leNat (leBytes 2 f.mask) = f.mask := leNat_leBytes_of_lt (Nat.lt_trans f.mask_lt (by decide))
  have hbyte : (byteOf id).toNat = id := by rw [byteOf_toNat, Nat.mod_eq_of_lt hid]
  calc bodyFields (encodeFieldsBody id f)
      = (decodeFields (leNat (leBytes 2 f.mask)) f.bytes).map fun x => ((byteOf id).toNat, x) := rfl
    _ = some (id, f) := by rw [hmask, decodeFields_bytes hf, hbyte, Option.map_some]

/-! ### The body of REPORT (R65, R183, R185) -/

/-- R185: the values of an item fit the bytes that carry them. -/
structure Item.Fit (i : Item) : Prop where
  id : i.id < 256
  tag : ∀ tag ∈ i.tag, tag < 256 ^ 4
  value : match i.value with
    | .tally n => n < 256 ^ 2
    | .ratio errors exposure => errors < 256 ^ 2 ∧ exposure < 256 ^ 3

/-- R185: the flag byte of an item: bit 0 for a tag, bit 1 for the RATIO form. -/
theorem itemFlags_bits (tagged ratio : Bool) :
    (byteOf (tagged.toNat + 2 * ratio.toNat)).toNat < 4 ∧
      (byteOf (tagged.toNat + 2 * ratio.toNat)).toNat.testBit 0 = tagged ∧
      (byteOf (tagged.toNat + 2 * ratio.toNat)).toNat.testBit 1 = ratio := by
  cases tagged <;> cases ratio <;> decide

/-- R65, R185: an item reads back as it was. -/
theorem takeItem_bytes {i : Item} (h : i.Fit) (rest : List Byte) : takeItem (i.bytes ++ rest) = some (i, rest) := by
  obtain ⟨id, tag, value⟩ := i
  obtain ⟨hid, htag, hvalue⟩ := h
  have hbyte : (byteOf id).toNat = id := by rw [byteOf_toNat, Nat.mod_eq_of_lt hid]
  cases value with
  | tally n =>
    obtain ⟨hlt, hbit0, hbit1⟩ := itemFlags_bits tag.isSome false
    have hincrement : n < 256 ^ 2 := hvalue
    calc takeItem (Item.bytes ⟨id, tag, .tally n⟩ ++ rest)
        = takeItem (byteOf id :: byteOf (tag.isSome.toNat + 2 * Bool.toNat false) ::
            (encodeNumber 4 tag ++ (leBytes 2 n ++ rest))) := by simp [Item.bytes]
      _ = some (⟨id, tag, .tally n⟩, rest) := by
        rw [takeItem, if_neg (Nat.not_le.2 hlt), bind_takeField htag hbit0]
        simp only [hbit1, Bool.false_eq_true, if_false, takeNumber_leBytes hincrement, Option.bind_eq_bind, Option.bind_some,
          hbyte]
  | ratio errors exposure =>
    obtain ⟨hlt, hbit0, hbit1⟩ := itemFlags_bits tag.isSome true
    obtain ⟨herrors, hexposure⟩ := hvalue
    calc takeItem (Item.bytes ⟨id, tag, .ratio errors exposure⟩ ++ rest)
        = takeItem (byteOf id :: byteOf (tag.isSome.toNat + 2 * Bool.toNat true) ::
            (encodeNumber 4 tag ++ (leBytes 2 errors ++ (leBytes 3 exposure ++ rest)))) := by simp [Item.bytes]
      _ = some (⟨id, tag, .ratio errors exposure⟩, rest) := by
        rw [takeItem, if_neg (Nat.not_le.2 hlt), bind_takeField htag hbit0]
        simp only [hbit1, if_true, takeNumber_leBytes herrors, takeNumber_leBytes hexposure, Option.bind_eq_bind,
          Option.bind_some, hbyte]

theorem takeItems_bytes {items : List Item} (h : ∀ i ∈ items, i.Fit) :
    takeItems items.length (items.flatMap Item.bytes) = some items := by
  induction items with
  | nil => rfl
  | cons i items ih =>
    obtain ⟨hi, hrest⟩ := List.forall_mem_cons.1 h
    simp [takeItems, takeItem_bytes hi, ih hrest]

theorem bodyItems_encodeItemsBody {items : List Item} (hmin : 1 ≤ items.length) (hmax : items.length ≤ 8)
    (h : ∀ i ∈ items, i.Fit) : bodyItems (encodeItemsBody items) = some items := by
  have hcount : (byteOf items.length).toNat = items.length := by
    rw [byteOf_toNat, Nat.mod_eq_of_lt (by omega)]
  have hrange : ¬ (items.length = 0 ∨ 8 < items.length) := by omega
  rw [encodeItemsBody, bodyItems, hcount, if_neg hrange, takeItems_bytes h]

/-- Settles O42: codes (`requestOf_iff`), frames (`frame_reads_back`) and bodies (`bodyFields_encodeFieldsBody`,
`bodyItems_encodeItemsBody`) read back as they were written. -/
theorem requestEncodingsAgree : Obligations.RequestEncodingsAgree := by
  refine ⟨fun code c => ?_, frame_reads_back, fun id f hid hbytes hwords hlabel => ?_, fun items hmin hmax hitems => ?_⟩
  · rw [requestOf_iff]
    cases c <;> simp [RequestCode.byte]
  · exact bodyFields_encodeFieldsBody hid ⟨hbytes, hwords, hlabel⟩
  · refine bodyItems_encodeItemsBody hmin hmax fun i hi => ?_
    obtain ⟨hid, htag, hvalue⟩ := hitems i hi
    exact ⟨hid, htag, hvalue⟩

end Sys2Proof.Machine
end

section
/-!
SUPPORT. What asks for a snapshot (chapter 8): SAVE (R141, R142), SETTINGS and the autosave timer (R140, R143, R144), and the
level of PFW_N, which freezes and thaws the part (R81, R154, R156).
-/
namespace Sys2Proof.Machine

/-! ### SAVE (R141, R142) -/

section
variable {s : State} {p : Port} {k : SlotNo} {r : Request}

theorem State.serviceSave_nothing (hidle : s.snap.phase = .idle) (hcount : s.snap.changeCount = 0) :
    s.serviceSave = (s, .answer .ok (leBytes 4 s.snap.newestGen ++ leBytes 4 0)) := by
  simp only [State.serviceSave, hidle, hcount, if_true]

theorem State.serviceSave_requests (hidle : s.snap.phase = .idle) (hcount : 1 ≤ s.snap.changeCount) :
    s.serviceSave = ({ s with snap := { s.snap with phase := .capturePending } }, .wait .current) := by
  simp only [State.serviceSave, hidle, if_neg (Nat.one_le_iff_ne_zero.1 hcount)]

theorem State.serviceSave_inFlight (hflight : s.snap.phase = .writing ∨ s.snap.phase = .verifying)
    (hcount : s.snap.changeCount = 0) : s.serviceSave = (s, .wait .current) := by
  rcases hflight with h | h <;> simp only [State.serviceSave, h, hcount, if_true]

theorem State.serviceSave_follows (hflight : s.snap.phase = .writing ∨ s.snap.phase = .verifying)
    (hcount : 1 ≤ s.snap.changeCount) :
    s.serviceSave = ({ s with snap := { s.snap with again := true } }, .wait .next) := by
  rcases hflight with h | h <;> simp only [State.serviceSave, h, if_neg (Nat.one_le_iff_ne_zero.1 hcount)]

theorem exec_save {x : State × Reply} (hadm : Admitted s p .save k r) (hbody : r.body = [])
    (hx : (s.beginService p k r).serviceSave = x) : exec (.save p) s = .next (x.1.endService p k r x.2) := by
  have hnone : bodyNone r.body = some () := by rw [hbody]; rfl
  exact congrArg Host.Outcome.next (hx ▸ hadm.serve bodyNone (fun t _ _ => t.serviceSave) hnone)

/-- R142: a SAVE that waits stands WAITING in its slot and at the end of the waiting list. -/
theorem exec_save_waits {n : Snapshot} {b : Binding} (hadm : Admitted s p .save k r) (hbody : r.body = [])
    (hx : (s.beginService p k r).serviceSave = ({ s.beginService p k r with snap := n }, .wait b)) :
    ∃ t, exec (.save p) s = .next t ∧ t = { s with lastServed := p, ports := t.ports, snap := t.snap } ∧
      t.ports.get p = { s.ports.get p with
        arrival := (s.ports.get p).arrival.tail, slots := (s.ports.get p).slots.set k (.waiting r) } ∧
      (∀ q, q ≠ p → t.ports.get q = s.ports.get q) ∧ t.snap = { n with waiting := n.waiting ++ [⟨p, k, b⟩] } := by
  refine ⟨_, exec_save hadm hbody hx, rfl, ?_, fun q hq => ?_, rfl⟩
  · simp [State.endService_wait_get, State.beginService_get]
  · simp [State.endService_wait_get, State.beginService_get, hq]

end

/-- Settles O43: a SAVE is one of `State.serviceSave_nothing`, `State.serviceSave_requests`, `State.serviceSave_inFlight` and
`State.serviceSave_follows`. -/
theorem saveWaitsForItsSnapshot : Obligations.SaveWaitsForItsSnapshot := by
  refine fun s p k r hadm hbody => ⟨fun hidle hcount => ?_, fun hwork => ?_⟩
  · exact ⟨_, exec_save hadm hbody (State.serviceSave_nothing hidle hcount), answersOnly_of s p k r _ _⟩
  · obtain ⟨-, hpending, -, -⟩ := arbiterChoice_request hadm.granted.1
    by_cases hidle : s.snap.phase = .idle
    · have hcount : 1 ≤ s.snap.changeCount := hwork.resolve_left (not_not_intro hidle)
      obtain ⟨t, hexec, hrest, hport, hothers, hsnap⟩ :=
        exec_save_waits hadm hbody (State.serviceSave_requests hidle hcount)
      exact ⟨t, hexec, hrest, hport, hothers, fun _ => hsnap, fun hflight => by simp [hidle] at hflight⟩
    · have hflight : s.snap.phase = .writing ∨ s.snap.phase = .verifying := by
        cases hphase : s.snap.phase with
        | idle => exact absurd hphase hidle
        | capturePending => exact absurd hphase hpending
        | writing => exact .inl rfl
        | verifying => exact .inr rfl
      by_cases hcount : s.snap.changeCount = 0
      · obtain ⟨t, hexec, hrest, hport, hothers, hsnap⟩ :=
          exec_save_waits hadm hbody (n := s.snap) (State.serviceSave_inFlight hflight hcount)
        exact ⟨t, hexec, hrest, hport, hothers, fun h => absurd h hidle, fun _ => ⟨fun _ => hsnap, fun h => by omega⟩⟩
      · obtain ⟨t, hexec, hrest, hport, hothers, hsnap⟩ :=
          exec_save_waits hadm hbody (State.serviceSave_follows hflight (Nat.one_le_iff_ne_zero.2 hcount))
        exact ⟨t, hexec, hrest, hport, hothers, fun h => absurd h hidle, fun _ => ⟨fun h => absurd h hcount, fun _ => hsnap⟩⟩

/-! ### Autosave and power-fail requests (R140) -/

/-- R140: a request with changes to write asks for the capture, or for another one after the snapshot in flight. -/
theorem Snapshot.request_eq (n : Snapshot) :
    n.request = { n with
      phase := if n.phase = .idle ∧ 1 ≤ n.changeCount then .capturePending else n.phase
      again := n.again || (decide (n.phase = .writing ∨ n.phase = .verifying) && decide (1 ≤ n.changeCount)) } := by
  obtain ⟨phase, count, _, _, again, _⟩ := n
  by_cases hcount : count = 0
  · simp [Snapshot.request, hcount]
  · have hpos : 1 ≤ count := Nat.one_le_iff_ne_zero.2 hcount
    cases phase <;> simp [Snapshot.request, hcount, hpos]

/-! ### SETTINGS (R144) -/

section
variable {s : State} {p : Port} {k : SlotNo} {r : Request} {interval : Nat}

theorem exec_settings {x : State × Reply} (hadm : Admitted s p .settings k r) (hbody : bodyWord r.body = some interval)
    (hx : (s.beginService p k r).serviceSettings interval = x) :
    exec (.settings p) s = .next (x.1.endService p k r x.2) :=
  congrArg Host.Outcome.next (hx ▸ hadm.serve bodyWord (fun t _ interval => t.serviceSettings interval) hbody)

theorem State.serviceSettings_outOfRange (h : 1440 < interval) :
    s.serviceSettings interval = (s, .code .outOfRange) := if_pos h

theorem State.serviceSettings_set (h : interval ≤ 1440) :
    s.serviceSettings interval =
      ({ s with snap := { s.snap with
          interval := interval, changeCount := satAdd32 s.snap.changeCount 1, autosave := autosavePeriods interval } },
       .answer .ok (leBytes 2 interval)) := if_neg (Nat.not_lt.2 h)

end

/-- What a request leaves that changes the snapshot unit and nothing else. -/
theorem snapRequest_frame (s : State) (p : Port) (k : SlotNo) (r : Request) (n : Snapshot) (result : ResultCode)
    (body : List Byte) :
    GrantFrame s (State.endService { s.beginService p k r with snap := n } p k r (.answer result body)) p k
      (r.reply result body) (fun q => (s.ports.get q).notices) :=
  grantFrame_of (s := s) (t := { s.beginService p k r with snap := n }) (p := p) (k := k) (r := r)
    (fun q => by rw [← State.beginService_notices s p q k r]) rfl rfl rfl rfl rfl rfl rfl rfl result body

/-- R143: a running autosave timer that expires makes its request and starts again. -/
theorem exec_autosaveExpiry {s : State} (h : s.snap.autosave.isSome = true) :
    exec .autosaveExpiry s = .next { s with snap := s.snap.request.startAutosave } :=
  congrArg Host.Outcome.next (if_pos h)

/-- Settles O44: SETTINGS is `State.serviceSettings_outOfRange` or `State.serviceSettings_set`, the expiry a request
(`Snapshot.request_eq`) and a start of the timer. -/
theorem settingsAndAutosaveTimer : Obligations.SettingsAndAutosaveTimer := by
  refine ⟨fun s p k r interval hadm hbody => ⟨fun habove => ?_, fun hin => ?_⟩, fun s hrunning => ?_⟩
  · exact ⟨_, exec_settings hadm hbody (State.serviceSettings_outOfRange habove), answersOnly_of s p k r _ _⟩
  · exact ⟨_, exec_settings hadm hbody (State.serviceSettings_set hin), snapRequest_frame s p k r _ _ _, rfl, rfl⟩
  · refine ⟨_, exec_autosaveExpiry hrunning, rfl, ?_⟩
    rw [Snapshot.request_eq]
    rfl

/-! ### PFW_N (R81, R154, R156) -/

theorem Accrual.thaw_eq (a : Accrual) :
    a.thaw = { a with candidate := a.candidate || decide (1 ≤ a.pendRun ∨ 1 ≤ a.pendPowered) } := by
  rw [Bool.decide_or, ← Bool.or_assoc]
  rfl

/-- The part with PFW_N at a level and in a phase. -/
def State.withPower (s : State) (pfwN : Bool) (phase : DevicePhase) : State :=
  { s with pins := { s.pins with pfwN := pfwN }, phase := phase }

theorem exec_pfwAssert_running {s : State} (h : s.phase = .running) :
    exec .pfwAssert s =
      .next { (s.withPower true .frozen).systemEvent .frozenEntered with snap := s.snap.request } := by
  simp only [exec, execPfwAssert, h]
  rfl

theorem exec_pfwAssert_other {s : State} (h : s.phase ≠ .running) :
    exec .pfwAssert s = .next { s with pins := { s.pins with pfwN := true } } := by
  cases hphase : s.phase with
  | running => exact absurd hphase h
  | _ => simp only [exec, execPfwAssert, hphase]

theorem exec_pfwDeassert_frozen {s : State} (h : s.phase = .frozen) :
    exec .pfwDeassert s =
      .next { (s.withPower false .running).systemEvent .frozenLeft with accrual := s.accrual.thaw } := by
  simp only [exec, execPfwDeassert, h]
  rfl

theorem exec_pfwDeassert_other {s : State} (h : s.phase ≠ .frozen) :
    exec .pfwDeassert s = .next { s with pins := { s.pins with pfwN := false } } := by
  cases hphase : s.phase with
  | frozen => exact absurd hphase h
  | _ => simp only [exec, execPfwDeassert, hphase]

/-- Settles O46: one system event for each attached port, with the request of `Snapshot.request_eq` on the way into FROZEN and
the candidate of `Accrual.thaw_eq` on the way out. -/
theorem powerFailFreezesAndThaws : Obligations.PowerFailFreezesAndThaws := by
  refine fun s => ⟨fun hrunning => ?_, exec_pfwAssert_other, fun hfrozen => ?_, exec_pfwDeassert_other⟩
  · exact ⟨_, exec_pfwAssert_running hrunning, rfl, State.systemEvent_get (s.withPower true .frozen) .frozenEntered,
      s.snap.request_eq⟩
  · exact ⟨_, exec_pfwDeassert_frozen hfrozen, rfl, State.systemEvent_get (s.withPower false .running) .frozenLeft,
      s.accrual.thaw_eq⟩

end Sys2Proof.Machine
end

section
/-!
SUPPORT. The sequence of a snapshot and its two ends (chapter 8): each completed operation hands over the next one (R147, R148),
the header read back ends the snapshot with success (R149), and a failed attempt is retried once (R150).
-/
namespace Sys2Proof.Machine

/-! ### What the link reports to the snapshot unit (R161, R163 to R167) -/

/-- R161: the link is in IDLE, as a client finds it at the end of its operation. -/
def Link.AtRest (l : Link) : Prop := l.phase = .idle ∧ l.op = none ∧ l.timer = none

/-- The part with its link in another state: at rest when a client hears of the end of its operation. -/
def State.withLink (s : State) (l : Link) : State := { s with link := l }

/-- R163, R164, R166: a clear busy bit completes the erase or program in hand. -/
theorem exec_statusRead_completes {s : State} {o : LinkOp} {status : Byte} (hop : s.link.op = some o)
    (hphase : s.link.phase = .busyWait) (hready : status.getLsbD 0 = false) :
    ∃ l : Link, l.AtRest ∧ exec (.statusRead status) s = .next ((s.withLink l).writeCompleted o.op) := by
  refine ⟨((s.sent [cmdStatus]).linkIdle).link, ⟨rfl, rfl, rfl⟩, ?_⟩
  simp only [exec, execStatusRead, hop, hphase, busyBit, hready]
  rfl

/-- R165: a page read of the snapshot unit completes. -/
theorem exec_pageRead_verifies {s : State} {o : LinkOp} {n : Nat} {data : List Byte} (hop : s.link.op = some o)
    (hclient : o.client = .snapshot) (hphase : s.link.phase = .command) (hread : o.op = .read n)
    (hlen : data.length = 256) :
    ∃ l : Link, l.AtRest ∧ exec (.pageRead data) s = .next ((s.withLink l).verifyPage n data) := by
  obtain ⟨op, bank, client⟩ := o
  subst hread hclient
  refine ⟨((s.sent (LinkOp.commandBytes ⟨.read n, bank, .snapshot⟩)).linkIdle).link, ⟨rfl, rfl, rfl⟩, ?_⟩
  simp only [exec, execPageRead, hop, hphase, hlen, if_true]
  rfl

/-- R162, R166, R167: a timeout of an operation of the snapshot unit fails the attempt. -/
theorem exec_timeout_fails {s : State} {o : LinkOp} {c : Instr} (hop : s.link.op = some o) (hclient : o.client = .snapshot)
    (hc : c = .readyWaitTimeout ∧ s.link.phase = .readyWait ∨ c = .busyWaitTimeout ∧ s.link.phase = .busyWait) :
    ∃ l : Link, l.AtRest ∧ exec c s = .next (s.withLink l).attemptFailure := by
  refine ⟨s.linkIdle.link, ⟨rfl, rfl, rfl⟩, ?_⟩
  obtain ⟨rfl, hphase⟩ | ⟨rfl, hphase⟩ := hc
  · simp only [exec, execReadyWaitTimeout, hop, hphase, State.opFailed, hclient]
    rfl
  · simp only [exec, execBusyWaitTimeout, hop, hphase, State.opFailed, hclient]
    rfl

/-! ### The sequence of operations (R147, R148) -/

/-- R147: the operation that follows an erase or a program of a snapshot. -/
def WriteFollows (op next : FlashOp) : Prop :=
  op = .erase 0 ∧ next = .erase 1 ∨ op = .erase 1 ∧ next = .erase 2 ∨ op = .erase 2 ∧ next = .erase 3 ∨
    op = .erase 3 ∧ next = .program 1 ∨ (∃ n, 1 ≤ n ∧ n < 32 ∧ op = .program n ∧ next = .program (n + 1)) ∨
    op = .program 32 ∧ next = .program 0 ∨ op = .program 0 ∧ next = .read 1

theorem State.writeCompleted_of_follows (s : State) {op next : FlashOp} (h : WriteFollows op next) :
    s.writeCompleted op =
      State.handOp { s with snap := { s.snap with phase := if op = .program 0 then .verifying else s.snap.phase } } next
        s.snap.target .snapshot := by
  rcases h with ⟨rfl, rfl⟩ | ⟨rfl, rfl⟩ | ⟨rfl, rfl⟩ | ⟨rfl, rfl⟩ | ⟨n, hpos, hlast, rfl, rfl⟩ | ⟨rfl, rfl⟩ | ⟨rfl, rfl⟩
  case inr.inr.inr.inr.inl =>
    have hne : n ≠ 0 := Nat.one_le_iff_ne_zero.1 hpos
    simp [State.writeCompleted, hne, hlast]
  all_goals rfl

section
variable {s : State} {n : Nat} {data : List Byte} {image : Image}

/-- R148: a body page that equals the buffer's. -/
theorem State.verifyPage_body (hbuffer : s.snap.buffer = some image) (hpos : 1 ≤ n) (hlast : n ≤ 32)
    (heq : data = image.page n) :
    s.verifyPage n data = s.handOp (if n = 32 then .read 0 else .read (n + 1)) s.snap.target .snapshot := by
  have hne : n ≠ 0 := Nat.one_le_iff_ne_zero.1 hpos
  simp only [State.verifyPage, hbuffer, heq, ne_eq, not_true_eq_false, if_false, hne]
  by_cases h : n = 32
  · subst h
    rfl
  · rw [if_pos (Nat.lt_of_le_of_ne hlast h), if_neg h]

theorem State.verifyPage_differs (hbuffer : s.snap.buffer = some image) (hne : data ≠ image.page n) :
    s.verifyPage n data = s.attemptFailure := by
  simp only [State.verifyPage, hbuffer, if_pos hne]

/-- R149: the header that equals the buffer's, with the check word confirmed. -/
theorem State.verifyPage_header (hbuffer : s.snap.buffer = some image) (hcheck : checkPasses image.header image.body = true) :
    s.verifyPage 0 image.header = s.snapshotSuccess image := by
  simp [State.verifyPage, hbuffer, Image.page, hcheck]

end

/-- Settles O48: the completion of an erase or program is `State.writeCompleted_of_follows`, that of a body read
`State.verifyPage_body`. -/
theorem snapshotWritesThenVerifiesInOrder : Obligations.SnapshotWritesThenVerifiesInOrder := by
  refine fun s o next hop hclient => ⟨fun status hphase hready hnext => ?_,
    fun n image data hphase hread hpos hlast hbuffer hlen hdata hnext => ?_⟩
  · obtain ⟨l, -, hexec⟩ := exec_statusRead_completes hop hphase hready
    rw [State.writeCompleted_of_follows _ hnext] at hexec
    exact ⟨_, hexec, rfl, rfl, rfl, rfl, rfl⟩
  · have hpage : data = image.page n := by
      rw [hdata, Image.page, if_neg (Nat.one_le_iff_ne_zero.1 hpos), bodyPage]
    obtain ⟨l, -, hexec⟩ := exec_pageRead_verifies hop hclient hphase hread hlen
    rw [State.verifyPage_body (s := s.withLink l) hbuffer hpos hlast hpage, ← hnext] at hexec
    exact ⟨_, hexec, rfl, rfl, rfl, rfl⟩

/-! ### The ends of a snapshot (R149, R150) -/

/-- The change count, the newest completed image, the buffer and the target of the one are those of the other. -/
def Snapshot.SameImages (n m : Snapshot) : Prop :=
  m.changeCount = n.changeCount ∧ m.newestBank = n.newestBank ∧ m.newestGen = n.newestGen ∧ m.buffer = n.buffer ∧
    m.target = n.target

theorem Snapshot.sameImages_afterEnd (n : Snapshot) : n.SameImages n.rebind.startAutosave.afterEnd := by
  unfold Snapshot.afterEnd
  split <;> exact ⟨rfl, rfl, rfl, rfl, rfl⟩

/-- R149, R150: the part at the end of a snapshot, with the snapshot unit as the end has set it, answers the SAVEs, tells the
ports of a failure and moves on. -/
theorem snapshotEnds {s : State} (hports : PortsSound s) {l : Link} (hl : l.AtRest) {n : Snapshot}
    (hwaiting : n.waiting = s.snap.waiting) (hagain : n.again = s.snap.again) (hinterval : n.interval = s.snap.interval)
    (result : ResultCode) (body : List Byte) (ev : Option SystemEvent) {notices : PortState → NoticeUnit}
    (hnotices : ∀ ps, notices ps = match ev with
      | none => ps.notices
      | some ev => if ps.attached then ps.notices.append (.system ev) else ps.notices) {t : State}
    (ht : t = (State.tellEnd ev (State.answerSaves { s.withLink l with snap := n } result body)).endSnapshot) :
    SnapshotEnded s t result body notices ∧ n.SameImages t.snap := by
  subst ht
  refine ⟨snapshotEnded_of s { s.withLink l with snap := n } result body ev notices hports rfl hwaiting hagain hinterval hl
    rfl hnotices, ?_⟩
  have hsnap : (State.tellEnd ev (State.answerSaves { s.withLink l with snap := n } result body)).snap = n.rebind := by
    cases ev <;> exact State.answerSaves_snap _ result body
  rw [State.endSnapshot_snap, hsnap]
  exact n.sameImages_afterEnd

/-- Settles O49: the header read is `State.verifyPage_header`, and its success ends the snapshot (`snapshotEnds`). -/
theorem snapshotSucceedsAtTheHeaderRead : Obligations.SnapshotSucceedsAtTheHeaderRead := by
  intro s bank image hphase hop hbuffer hlen hcheck hports
  obtain ⟨l, hl, hexec⟩ := exec_pageRead_verifies hop rfl hphase rfl hlen
  rw [State.verifyPage_header (s := s.withLink l) hbuffer (decide_eq_true hcheck)] at hexec
  obtain ⟨hended, hcount, hbank, hgen, hbuf, htarget⟩ := snapshotEnds hports hl
    (n := { s.snap with newestBank := some s.snap.target, newestGen := headerGeneration image.header }) rfl rfl rfl .ok
    (leBytes 4 (headerGeneration image.header) ++ leBytes 4 s.snap.captured) none (notices := PortState.notices)
    (fun _ => rfl) (t := (s.withLink l).snapshotSuccess image) rfl
  exact ⟨_, hexec, hended, hbank, hgen, hcount, hbuf, htarget⟩

/-- R148, R166, R167: what fails an attempt. -/
theorem exec_attemptFails {s : State} {o : LinkOp} {c : Instr} (hop : s.link.op = some o) (hclient : o.client = .snapshot)
    (hc : c = .readyWaitTimeout ∧ s.link.phase = .readyWait ∨ c = .busyWaitTimeout ∧ s.link.phase = .busyWait ∨
      ∃ n data image, c = .pageRead data ∧ s.link.phase = .command ∧ o.op = .read n ∧ data.length = 256 ∧
        s.snap.buffer = some image ∧ data ≠ image.page n) :
    ∃ l : Link, l.AtRest ∧ exec c s = .next (s.withLink l).attemptFailure := by
  rw [← or_assoc] at hc
  rcases hc with hc | ⟨n, data, image, rfl, hphase, hread, hlen, hbuffer, hne⟩
  · exact exec_timeout_fails hop hclient hc
  · obtain ⟨l, hl, hexec⟩ := exec_pageRead_verifies hop hclient hphase hread hlen
    rw [State.verifyPage_differs (s := s.withLink l) hbuffer hne] at hexec
    exact ⟨l, hl, hexec⟩

theorem State.attemptFailure_first {s : State} (h : s.snap.attempt = .first) :
    s.attemptFailure = State.handOp { s with snap := { s.snap with attempt := .second, phase := .writing } } (.erase 0)
      s.snap.target .snapshot := by
  simp only [State.attemptFailure, h]

theorem State.attemptFailure_second {s : State} (h : s.snap.attempt = .second) : s.attemptFailure = s.snapshotFailure := by
  simp only [State.attemptFailure, h]

/-- Settles O50: every cause is one of `exec_attemptFails`; the first failure hands over the first erase again, the second
ends the snapshot (`snapshotEnds`). -/
theorem failedAttemptRetriesOnceThenFails : Obligations.FailedAttemptRetriesOnceThenFails := by
  intro s o c hop hclient hc
  obtain ⟨l, hl, hexec⟩ := exec_attemptFails hop hclient hc
  refine ⟨fun hfirst => ?_, fun hsecond hports => ?_⟩
  · rw [State.attemptFailure_first (s := s.withLink l) hfirst] at hexec
    exact ⟨_, hexec, rfl, rfl, rfl, rfl, rfl⟩
  · rw [State.attemptFailure_second (s := s.withLink l) hsecond] at hexec
    obtain ⟨hended, hcount, hbank, hgen, -, htarget⟩ := snapshotEnds hports hl
      (n := { s.snap with changeCount := satAdd32 s.snap.changeCount s.snap.captured }) rfl rfl rfl .snapshotFailed
      (leBytes 4 s.snap.newestGen) (some .snapshotFailed) (fun _ => rfl) (t := (s.withLink l).snapshotFailure) rfl
    exact ⟨_, hexec, hended, hcount, hbank, hgen, htarget⟩

end Sys2Proof.Machine
end

section
/-!
SUPPORT. The table outside RUNNING (R155): while the phase is FROZEN, and while it stays STARTING, no command but a device reset
changes the pool or anything of an entry but its override.
-/
namespace Sys2Proof.Machine

/-! ### Changes of overrides alone -/

/-- Between `s` and `t` the pool stood, and of the entries nothing but overrides changed. -/
structure TableStands (s t : State) : Prop where
  pool : t.pool = s.pool
  table : t.table.map Entry.dropOverride = s.table.map Entry.dropOverride

theorem tableStands_of_eq {s t : State} (htable : t.table = s.table) (hpool : t.pool = s.pool) : TableStands s t :=
  ⟨hpool, by rw [htable]⟩

theorem TableStands.refl (s : State) : TableStands s s := ⟨rfl, rfl⟩

theorem TableStands.trans {s t u : State} (h : TableStands s t) (h' : TableStands t u) : TableStands s u :=
  ⟨h'.pool.trans h.pool, h'.table.trans h.table⟩

theorem Aside.stands {s t : State} (h : Aside s t) (hpool : t.pool = s.pool) : TableStands s t :=
  tableStands_of_eq h.table hpool

/-- R56, R113: the end of the lease drops overrides. -/
theorem tableStands_endLease (s : State) (reason : LeaseEndReason) : TableStands s (s.endLease reason) := by
  cases hh : s.lease.holder with
  | none =>
    rw [State.endLease_none s reason hh]
    exact .refl s
  | some p =>
    rw [State.endLease_eq s reason hh]
    exact ⟨rfl, List.map_map⟩

theorem tableStands_resetPort (s : State) (p : Port) (spared : Option SlotNo) : TableStands s (s.resetPort p spared) := by
  have hfree : TableStands s (s.freePort p spared) := tableStands_of_eq rfl rfl
  by_cases hh : s.lease.holder = some p
  · rw [State.resetPort_holder hh]
    exact hfree.trans (tableStands_endLease _ _)
  · rw [State.resetPort_other hh]
    exact hfree

theorem eq_of_mem_of_id {table : List Entry} (hids : (table.map Entry.id).Nodup) {x e : Entry} (hx : x ∈ table)
    (he : e ∈ table) (hid : x.id = e.id) : x = e :=
  Option.some.inj ((findEntry_of_mem hids hx).symm.trans (hid ▸ findEntry_of_mem hids he))

/-- R54: an override of one entry. -/
theorem tableStands_setOverride {s : State} (hids : (s.table.map Entry.id).Nodup) {e : Entry} (he : e ∈ s.table)
    (o : Override) : TableStands s (s.replaceEntry e (e.setOverride o)) := by
  refine ⟨State.replaceEntry_pool s _ _, ?_⟩
  rw [State.replaceEntry_table, putEntry, List.map_map]
  refine List.map_congr_left fun x hx => ?_
  by_cases hid : x.id = e.id
  · have hxe : x = e := eq_of_mem_of_id hids hx he hid
    subst hxe
    simp [Entry.setOverride, Entry.dropOverride]
  · simp [hid]

/-! ### Grants (R13, R155) -/

section
variable {s : State} {p : Port} {c : RequestCode} {decode : List Byte → Option α}
  {service : State → SlotNo → α → State × Reply}

theorem tableStands_beginService (s : State) (p : Port) (k : SlotNo) (r : Request) :
    TableStands s (s.beginService p k r) := tableStands_of_eq rfl rfl

theorem tableStands_endService (s : State) (p : Port) (k : SlotNo) (r : Request) (reply : Reply) :
    TableStands s (s.endService p k r reply) :=
  tableStands_of_eq (State.endService_table ..) (State.endService_pool ..)

/-- R10, R11: a grant changes what the request's own service changes. -/
theorem tableStands_serve
    (h : ∀ k r x, Granted s p c k r → (s.beginService p k r).checkFailure p c true = none →
      TableStands (s.beginService p k r) (service (s.beginService p k r) k x).1) :
    TableStands s (s.serve p c decode service) := by
  rcases State.serve_cases s p c decode service with heq | ⟨k, r, hg, ⟨reply, -, heq⟩ | ⟨x, -, hpass, heq⟩⟩
  · rw [heq]
    exact .refl s
  · rw [heq]
    exact (tableStands_beginService s p k r).trans (tableStands_endService _ p k r reply)
  · rw [heq]
    exact (tableStands_beginService s p k r).trans ((h k r x hg hpass).trans (tableStands_endService _ p k r _))

/-- R13: a request that R14 refuses FROZEN passes the checks at grant in another phase alone. -/
theorem State.phase_of_passes (h : s.checkFailure p c true = none) (hc : (requestRow c).refusedFrozen = true) :
    s.phase ≠ .frozen := by
  intro hp
  unfold State.checkFailure at h
  rw [hc, hp] at h
  split at h
  · cases h
  · rw [if_neg (by decide)] at h
    split at h <;> cases h

/-- R155: a request that R14 refuses FROZEN changes nothing outside RUNNING. -/
theorem tableStands_refused (hp : s.phase ≠ .running) (hc : (requestRow c).refusedFrozen = true) :
    TableStands s (s.serve p c decode service) :=
  tableStands_serve fun k r _ hg hpass => by
    have hstarting := hg.phase
    have hfrozen : s.phase ≠ .frozen := State.phase_of_passes (s := s.beginService p k r) hpass hc
    cases hphase : s.phase <;> contradiction

end

theorem tableStands_unknownRequest (s : State) (p : Port) (reply : State → Reply) :
    TableStands s (s.grantRequest p none fun t _ _ => (t, reply t)) := by
  unfold State.grantRequest
  split
  · split
    · exact (tableStands_beginService s p _ _).trans (tableStands_endService _ p _ _ _)
    · exact .refl s
  all_goals exact .refl s

theorem tableStands_serviceOverride {s : State} (hids : (s.table.map Entry.id).Nodup) (id value : Nat) :
    TableStands s (s.serviceOverride id value).1 := by
  unfold State.serviceOverride
  split
  · exact .refl s
  · exact .refl s
  · next e o hfind _ =>
    exact (tableStands_setOverride hids (findEntry_mem hfind) o).trans (tableStands_of_eq rfl rfl)

theorem tableStands_modifyNotices (s : State) (p : Port) (f : NoticeUnit → NoticeUnit) :
    TableStands s (s.modifyNotices p f) := tableStands_of_eq rfl rfl

theorem tableStands_serviceDescribe (id : Nat) (s : State) : TableStands s (s.serviceDescribe id).1 := by
  unfold State.serviceDescribe
  split <;> exact .refl s

theorem tableStands_serviceWatch (p : Port) (id : Nat) (s : State) : TableStands s (s.serviceWatch p id).1 := by
  unfold State.serviceWatch
  dsimp only
  split
  · exact .refl s
  · split
    · exact .refl s
    · split
      · exact .refl s
      · exact tableStands_modifyNotices s p fun n => { n with watch := insertId id n.watch }

theorem tableStands_serviceAck (p : Port) (seq : Nat) (s : State) : TableStands s (s.serviceAck p seq).1 := by
  unfold State.serviceAck
  dsimp only
  split
  · exact .refl s
  · next i _ => exact tableStands_modifyNotices s p fun n => { n with queue := n.queue.drop (i + 1) }

theorem tableStands_serviceClaim (p : Port) (duration : Nat) (s : State) :
    TableStands s (s.serviceClaim p duration).1 := by
  unfold State.serviceClaim
  split
  · exact .refl s
  · split
    · exact tableStands_of_eq rfl rfl
    · exact .refl s

theorem tableStands_serviceRelease (p : Port) (s : State) : TableStands s (s.serviceRelease p).1 := by
  unfold State.serviceRelease
  split
  · exact tableStands_endLease s .released
  · exact .refl s

theorem tableStands_serviceSave (s : State) : TableStands s s.serviceSave.1 := by
  unfold State.serviceSave
  split
  · split
    · exact .refl s
    · exact tableStands_of_eq rfl rfl
  · exact .refl s
  all_goals
    split
    · exact .refl s
    · exact tableStands_of_eq rfl rfl

/-! ### Jobs, timers and the ports' own events -/

theorem tableStands_captureJob (s : State) : ∀ t, execCaptureJob s = .next t → TableStands s t := by
  rintro _ ⟨⟩
  split
  · exact tableStands_of_eq rfl rfl
  all_goals exact .refl s

/-- R80: outside RUNNING the accrual job adds no second to an entry. -/
theorem tableStands_accrualJob {s : State} (hp : s.phase ≠ .running) :
    ∀ t, execAccrualJob s = .next t → TableStands s t := by
  rintro _ ⟨⟩
  split
  · dsimp only
    split
    · next hphase => exact absurd hphase hp
    all_goals exact tableStands_of_eq rfl rfl
  all_goals exact .refl s

theorem tableStands_secondTick (run : Bool) (s : State) : ∀ t, execSecondTick run s = .next t → TableStands s t := by
  rintro _ ⟨⟩
  split
  · exact .refl s
  · split <;> exact tableStands_of_eq rfl rfl

theorem tableStands_leaseUnitComplete (s : State) : ∀ t, execLeaseUnitComplete s = .next t → TableStands s t := by
  rintro _ ⟨⟩
  split
  · exact .refl s
  · split
    · exact tableStands_endLease s .expired
    · exact tableStands_of_eq rfl rfl

theorem tableStands_leaseExpiry (s : State) : ∀ t, execLeaseExpiry s = .next t → TableStands s t := by
  rintro _ ⟨⟩
  split
  · exact tableStands_endLease s .expired
  · exact .refl s

theorem tableStands_autosaveExpiry (s : State) : ∀ t, execAutosaveExpiry s = .next t → TableStands s t := by
  rintro _ ⟨⟩
  split
  · exact tableStands_of_eq rfl rfl
  · exact .refl s

theorem tableStands_pfwAssert (s : State) : ∀ t, execPfwAssert s = .next t → TableStands s t := by
  rintro _ ⟨⟩
  split <;> exact tableStands_of_eq rfl rfl

theorem tableStands_pfwDeassert (s : State) : ∀ t, execPfwDeassert s = .next t → TableStands s t := by
  rintro _ ⟨⟩
  split <;> exact tableStands_of_eq rfl rfl

theorem tableStands_resetDeassert (s : State) : ∀ t, execResetDeassert s = .next t → TableStands s t := by
  rintro _ ⟨⟩
  split
  · exact tableStands_of_eq rfl rfl
  · exact .refl s

theorem tableStands_portReset (p : Port) (s : State) : ∀ t, execPortReset p s = .next t → TableStands s t := by
  rintro _ ⟨⟩
  have hheld : TableStands s (s.assertPrst p) := tableStands_of_eq rfl rfl
  exact hheld.trans (tableStands_resetPort _ p none)

theorem tableStands_arrive (s : State) (p : Port) (r : Request) : TableStands s (s.arrive p r) := by
  unfold State.arrive
  split
  · exact tableStands_of_eq rfl rfl
  · split
    · exact tableStands_of_eq rfl rfl
    · exact tableStands_of_eq (State.refreshLease_table ..) (State.refreshLease_pool ..)

theorem tableStands_frameArrival (p : Port) (bytes : List Byte) (s : State) :
    ∀ t, execFrameArrival p bytes s = .next t → TableStands s t := by
  rintro _ ⟨⟩
  split
  · split
    · exact tableStands_arrive s p _
    · exact tableStands_of_eq rfl rfl
  · exact .refl s

theorem tableStands_invalidSelectEnd (p : Port) (s : State) :
    ∀ t, execInvalidSelectEnd p s = .next t → TableStands s t := by
  rintro _ ⟨⟩
  split
  · exact tableStands_of_eq rfl rfl
  · exact .refl s

theorem tableStands_readSelect (p : Port) (s : State) : ∀ t, execReadSelect p s = .next t → TableStands s t := by
  rintro _ ⟨⟩
  split
  · exact tableStands_of_eq rfl rfl
  · exact .refl s

/-! ### The snapshot unit (chapter 8) -/

theorem tableStands_attemptFailure (s : State) : TableStands s s.attemptFailure := by
  refine (aside_attemptFailure s).stands ?_
  unfold State.attemptFailure State.snapshotFailure
  split <;> simp

theorem tableStands_writeCompleted (s : State) (op : FlashOp) : TableStands s (s.writeCompleted op) := by
  refine (aside_writeCompleted s op).stands ?_
  cases op with
  | erase k =>
    unfold State.writeCompleted
    dsimp only
    split <;> rfl
  | program n =>
    unfold State.writeCompleted
    dsimp only
    split
    · rfl
    · split <;> rfl
  | read n => rfl

theorem tableStands_verifyPage (s : State) (n : Nat) (data : List Byte) : TableStands s (s.verifyPage n data) := by
  have hfailure := tableStands_attemptFailure s
  unfold State.verifyPage
  split
  · exact hfailure
  · next image _ =>
    split
    · exact hfailure
    · split
      · split
        · exact (aside_snapshotSuccess s image).stands (by simp [State.snapshotSuccess])
        · exact hfailure
      · split <;> exact tableStands_of_eq rfl rfl

/-! ### The start-up logic (chapter 10) -/

/-- Between `s` and `t` the table stood, unless start-up ended. -/
def StandsWhileStarting (s t : State) : Prop := t.phase = .starting → TableStands s t

theorem StandsWhileStarting.after {s t u : State} (h' : StandsWhileStarting t u) (h : TableStands s t) :
    StandsWhileStarting s u := fun hu => h.trans (h' hu)

/-- R175, R176: the end of start-up leaves STARTING. -/
theorem standsWhileStarting_endStartup (s : State) (table : List Entry) (pool : List EpochRecord) (proved : Option Bank)
    (generation interval : Nat) : StandsWhileStarting s (s.endStartup table pool proved generation interval) := by
  intro h
  unfold State.endStartup at h
  dsimp only at h
  split at h <;> cases h

theorem standsWhileStarting_tryNext (s : State) : StandsWhileStarting s s.tryNext := by
  unfold State.tryNext
  split
  · exact standsWhileStarting_endStartup s _ _ _ _ _
  · exact fun _ => tableStands_of_eq rfl rfl

theorem standsWhileStarting_bankFailed (s : State) : StandsWhileStarting s s.bankFailed :=
  (standsWhileStarting_tryNext _).after (tableStands_of_eq rfl rfl)

theorem standsWhileStarting_headerBDone (s : State) (v : HeaderVerdict) (copy : Option (List Byte)) :
    StandsWhileStarting s (s.headerBDone v copy) :=
  (standsWhileStarting_tryNext _).after (tableStands_of_eq rfl rfl)

theorem standsWhileStarting_judgeBank (s : State) (image : Image) (sum : Nat) :
    StandsWhileStarting s (s.judgeBank image sum) := by
  unfold State.judgeBank
  split
  · split
    · exact standsWhileStarting_endStartup s _ _ _ _ _
    · exact standsWhileStarting_bankFailed s
  · exact standsWhileStarting_bankFailed s

theorem standsWhileStarting_bodyPageRead (s : State) (n : Nat) (data : List Byte) :
    StandsWhileStarting s (s.bodyPageRead n data) := by
  unfold State.bodyPageRead
  dsimp only
  split
  · exact fun _ => tableStands_of_eq rfl rfl
  · exact (standsWhileStarting_judgeBank _ _ _).after (tableStands_of_eq rfl rfl)

theorem standsWhileStarting_startupPage (s : State) (n : Nat) (data : List Byte) :
    StandsWhileStarting s (s.startupPage n data) := by
  unfold State.startupPage
  split
  · exact fun _ => tableStands_of_eq rfl rfl
  · exact standsWhileStarting_headerBDone s _ _
  · exact standsWhileStarting_bodyPageRead s n data
  · exact fun _ => .refl s

theorem standsWhileStarting_startupFailure (s : State) : StandsWhileStarting s s.startupFailure := by
  unfold State.startupFailure
  split
  · exact fun _ => tableStands_of_eq rfl rfl
  · exact standsWhileStarting_headerBDone s _ _
  · exact standsWhileStarting_bankFailed s
  · exact fun _ => .refl s

/-! ### The memory link (chapter 9) -/

/-- Between `s` and `t` the table stood, unless start-up was under way and ended. -/
def StandsOutsideRunning (s t : State) : Prop := (s.phase = .starting → t.phase = .starting) → TableStands s t

theorem TableStands.outsideRunning {s t : State} (h : TableStands s t) : StandsOutsideRunning s t := fun _ => h

theorem StandsWhileStarting.outsideRunning {s t : State} (h : StandsWhileStarting s t) (hs : s.phase = .starting) :
    StandsOutsideRunning s t := fun hstays => h (hstays hs)

/-- R161: an operation of the start-up logic is in hand while STARTING alone. -/
theorem Sound.starting_of_startup {s : State} (hs : Sound s) {o : LinkOp} (hop : s.link.op = some o)
    (hclient : o.client = .startup) : s.phase = .starting := by
  obtain ⟨-, hsound⟩ := hs.snapshot.op o hop
  rw [hclient] at hsound
  exact hsound.1

theorem stands_readDone {s u : State} (hs : Sound s) {o : LinkOp} (hop : s.link.op = some o) (hu : TableStands s u)
    (n : Nat) (data : List Byte) : StandsOutsideRunning s (u.readDone o n data) := by
  have hidle : TableStands s u.linkIdle := hu.trans (tableStands_of_eq rfl rfl)
  unfold State.readDone
  split
  · exact (hidle.trans (tableStands_verifyPage _ n data)).outsideRunning
  · next hclient =>
    exact ((standsWhileStarting_startupPage _ n data).after hidle).outsideRunning (hs.starting_of_startup hop hclient)

theorem stands_opFailed {s : State} (hs : Sound s) {o : LinkOp} (hop : s.link.op = some o) :
    StandsOutsideRunning s (s.opFailed o) := by
  have hidle : TableStands s s.linkIdle := tableStands_of_eq rfl rfl
  unfold State.opFailed
  split
  · exact (hidle.trans (tableStands_attemptFailure _)).outsideRunning
  · next hclient =>
    exact ((standsWhileStarting_startupFailure _).after hidle).outsideRunning (hs.starting_of_startup hop hclient)

theorem tableStands_statusRead (status : Byte) (s : State) : ∀ t, execStatusRead status s = .next t → TableStands s t := by
  rintro _ ⟨⟩
  split
  · dsimp only
    split <;> exact tableStands_of_eq rfl rfl
  · next o _ _ =>
    have hidle : TableStands s (s.sent [cmdStatus]).linkIdle := tableStands_of_eq rfl rfl
    dsimp only
    split
    · exact tableStands_of_eq rfl rfl
    · exact hidle.trans (tableStands_writeCompleted _ o.op)
  all_goals exact .refl s

theorem tableStands_writeEnable (s : State) : ∀ t, execWriteEnable s = .next t → TableStands s t := by
  rintro _ ⟨⟩
  split
  case h_1 | h_2 =>
    split
    · exact .refl s
    · exact tableStands_of_eq rfl rfl
  all_goals exact .refl s

theorem tableStands_sectorErase (s : State) : ∀ t, execSectorEraseTransaction s = .next t → TableStands s t := by
  rintro _ ⟨⟩
  split
  · split
    · exact tableStands_of_eq rfl rfl
    · exact .refl s
  all_goals exact .refl s

theorem tableStands_pageProgram (s : State) : ∀ t, execPageProgramTransaction s = .next t → TableStands s t := by
  rintro _ ⟨⟩
  split
  · split
    · exact tableStands_of_eq rfl rfl
    · exact .refl s
  all_goals exact .refl s

theorem stands_pageRead {s : State} (hs : Sound s) (data : List Byte) :
    ∀ t, execPageRead data s = .next t → StandsOutsideRunning s t := by
  rintro _ ⟨⟩
  split
  · split
    · next n bank client _ hop =>
      have hsent : TableStands s (s.sent (LinkOp.commandBytes ⟨.read n, bank, client⟩)) := tableStands_of_eq rfl rfl
      exact stands_readDone hs hop hsent n data
    all_goals exact fun _ => .refl s
  · exact fun _ => .refl s

theorem stands_readyWaitTimeout {s : State} (hs : Sound s) :
    ∀ t, execReadyWaitTimeout s = .next t → StandsOutsideRunning s t := by
  rintro _ ⟨⟩
  split
  · next hop => exact stands_opFailed hs hop
  all_goals exact fun _ => .refl s

theorem stands_busyWaitTimeout {s : State} (hs : Sound s) :
    ∀ t, execBusyWaitTimeout s = .next t → StandsOutsideRunning s t := by
  rintro _ ⟨⟩
  split
  · next hop => exact stands_opFailed hs hop
  all_goals exact fun _ => .refl s

/-! ### Every command -/

/-- R155: what every command but a device reset keeps outside RUNNING. -/
theorem exec_stands {s : State} (hs : Sound s) (hp : s.phase ≠ .running) {c : Instr} (hc : c ≠ .deviceReset) :
    ∀ t, exec c s = .next t → StandsOutsideRunning s t := by
  have next : ∀ {u : State}, TableStands s u → ∀ t, (.next u : Result) = .next t → StandsOutsideRunning s t := by
    rintro u hu _ ⟨⟩
    exact hu.outsideRunning
  have always : ∀ {x : Result}, (∀ t, x = .next t → TableStands s t) → ∀ t, x = .next t → StandsOutsideRunning s t :=
    fun h t ht => (h t ht).outsideRunning
  cases c with
  | attach p => exact next (tableStands_serve fun _ _ _ _ _ => tableStands_of_eq rfl rfl)
  | detach p => exact next (tableStands_serve fun k _ _ _ _ => tableStands_resetPort _ p (some k))
  | define p => exact next (tableStands_refused hp rfl)
  | amend p => exact next (tableStands_refused hp rfl)
  | retire p => exact next (tableStands_refused hp rfl)
  | renew p => exact next (tableStands_refused hp rfl)
  | describe p => exact next (tableStands_serve fun _ _ id _ _ => tableStands_serviceDescribe id _)
  | list p => exact next (tableStands_serve fun _ _ _ _ _ => .refl _)
  | clear p => exact next (tableStands_refused hp rfl)
  | override p =>
    exact next (tableStands_serve fun k r x _ _ =>
      tableStands_serviceOverride (s := s.beginService p k r) hs.table.ids_nodup x.1 x.2)
  | report p => exact next (tableStands_refused hp rfl)
  | watch p => exact next (tableStands_serve fun _ _ id _ _ => tableStands_serviceWatch p id _)
  | unwatch p => exact next (tableStands_serve fun _ _ _ _ _ => tableStands_modifyNotices _ p _)
  | fetch p => exact next (tableStands_serve fun _ _ _ _ _ => tableStands_modifyNotices _ p _)
  | ack p => exact next (tableStands_serve fun _ _ seq _ _ => tableStands_serviceAck p seq _)
  | claim p => exact next (tableStands_serve fun _ _ duration _ _ => tableStands_serviceClaim p duration _)
  | release p => exact next (tableStands_serve fun _ _ _ _ _ => tableStands_serviceRelease p _)
  | save p => exact next (tableStands_serve fun _ _ _ _ _ => tableStands_serviceSave _)
  | settings p => exact next (tableStands_refused hp rfl)
  | unknownRequestCode p => exact next (tableStands_unknownRequest s p _)
  | captureJob => exact always (tableStands_captureJob s)
  | accrualJob => exact always (tableStands_accrualJob hp)
  | secondTick run => exact always (tableStands_secondTick run s)
  | leaseUnitComplete => exact always (tableStands_leaseUnitComplete s)
  | leaseExpiry => exact always (tableStands_leaseExpiry s)
  | autosaveExpiry => exact always (tableStands_autosaveExpiry s)
  | pfwAssert => exact always (tableStands_pfwAssert s)
  | pfwDeassert => exact always (tableStands_pfwDeassert s)
  | portReset p => exact always (tableStands_portReset p s)
  | prstDeassert p => exact next (tableStands_of_eq rfl rfl)
  | deviceReset => exact absurd rfl hc
  | resetDeassert => exact always (tableStands_resetDeassert s)
  | frameArrival p bytes => exact always (tableStands_frameArrival p bytes s)
  | readSelect p => exact always (tableStands_readSelect p s)
  | readEnd p clocked => exact next (tableStands_of_eq rfl rfl)
  | invalidSelectEnd p => exact always (tableStands_invalidSelectEnd p s)
  | statusRead status => exact always (tableStands_statusRead status s)
  | writeEnable => exact always (tableStands_writeEnable s)
  | sectorEraseTransaction => exact always (tableStands_sectorErase s)
  | pageProgramTransaction => exact always (tableStands_pageProgram s)
  | pageRead data => exact stands_pageRead hs data
  | readyWaitTimeout => exact stands_readyWaitTimeout hs
  | busyWaitTimeout => exact stands_busyWaitTimeout hs

/-- Settles O53: in both phases the table stands but for overrides (`exec_stands`), and while STARTING it is empty to
begin with (R2). -/
theorem frozenTableStands : Obligations.FrozenTableStands := by
  refine fun c s t hs h => ⟨fun hfrozen hc => ?_, fun hstarting hstill => ?_⟩
  · have hstands := exec_stands hs (by simp [hfrozen]) hc t h fun hstarting => by simp [hfrozen] at hstarting
    exact ⟨hstands.pool, hstands.table⟩
  · by_cases hc : c = .deviceReset
    · subst hc
      cases h
      rfl
    · obtain ⟨-, hempty, -, -⟩ := hs.phase
      have htable := (exec_stands hs (by simp [hstarting]) hc t h fun _ => hstill).table
      rw [(hempty hstarting).1] at htable
      exact List.map_eq_nil_iff.1 htable

end Sys2Proof.Machine
end

section
/-!
SUPPORT. The bytes of an image (R187): fields laid out one after the other, records of one size behind each other, and with them
what stands where in the header, in an entry record and in the body.
-/
namespace Sys2Proof.Machine

/-! ### Fields laid out one after the other (R178) -/

/-- R178: numbers one after the other, each in its own width. -/
def layoutBytes (fields : List (Nat × Nat)) : List Byte := fields.flatMap fun x => leBytes x.1 x.2

/-- R178: every number fits its width. -/
def LayoutFits (fields : List (Nat × Nat)) : Prop := ∀ x ∈ fields, x.2 < 256 ^ x.1

theorem layoutBytes_length (fields : List (Nat × Nat)) : (layoutBytes fields).length = (fields.map Prod.fst).sum := by
  simp [layoutBytes, List.length_flatMap]

/-- The field with number k lies behind the widths of the fields before it. -/
theorem fieldAt_layoutBytes {fields : List (Nat × Nat)} (hfits : LayoutFits fields) (rest : List Byte) {k offset w n : Nat}
    (hk : fields[k]? = some (w, n)) (hoffset : ((fields.take k).map Prod.fst).sum = offset) :
    fieldAt (layoutBytes fields ++ rest) offset w = n := by
  induction fields generalizing k offset with
  | nil => cases hk
  | cons x fields ih =>
    obtain ⟨hx, hfields⟩ := List.forall_mem_cons.1 hfits
    have hsplit : layoutBytes (x :: fields) ++ rest = leBytes x.1 x.2 ++ (layoutBytes fields ++ rest) := by
      simp [layoutBytes]
    rw [hsplit]
    cases k with
    | zero =>
      cases hk
      subst hoffset
      rw [List.take_zero, List.map_nil, List.sum_nil, fieldAt_head _ (leBytes_length ..), leNat_leBytes_of_lt hx]
    | succ k =>
      rw [List.take_succ_cons, List.map_cons, List.sum_cons] at hoffset
      rw [fieldAt_append_right _ _ w (by rw [leBytes_length]; omega), leBytes_length]
      exact ih hfields hk (by omega)

/-! ### Parts of a record, records of one size (R187) -/

/-- A field of a record that is a part of a longer one. -/
theorem fieldAt_part (bs : List Byte) {start inner offset size w : Nat} (hoffset : start + inner = offset)
    (hfits : inner + w ≤ size) : fieldAt bs offset w = fieldAt ((bs.drop start).take size) inner w := by
  rw [fieldAt, fieldAt, List.drop_take, List.take_take, List.drop_drop, hoffset, Nat.min_eq_left (by omega)]

theorem part_append_left {xs : List Byte} (ys : List Byte) {start size : Nat} (h : start + size ≤ xs.length) :
    ((xs ++ ys).drop start).take size = (xs.drop start).take size := by
  rw [List.drop_append_of_le_length (by omega), List.take_append_of_le_length (by rw [List.length_drop]; omega)]

theorem part_append_right (xs ys : List Byte) {start inner : Nat} (size : Nat) (h : xs.length + inner = start) :
    ((xs ++ ys).drop start).take size = (ys.drop inner).take size := by
  rw [← h, List.drop_length_add_append]

theorem take_append_zeros (bs : List Byte) {n m : Nat} (h : n ≤ m) : (bs ++ zeros m).take n = padTo n bs := by
  rw [padTo, List.take_append, List.take_append, zeros, zeros, List.take_replicate, List.take_replicate]
  congr 2
  omega

/-- Records of one size, filled up to a number of them: record i, or zeros behind the last one. -/
theorem part_records {f : α → List Byte} {size : Nat} (hf : ∀ x, (f x).length = size) (xs : List α) {count i : Nat}
    (hi : i < count) :
    ((padTo (size * count) (xs.flatMap f)).drop (size * i)).take size = (xs[i]?.map f).getD (zeros size) := by
  induction xs generalizing count i with
  | nil =>
    have hle : size * i + size ≤ size * count := Nat.mul_le_mul_left size hi
    simp [padTo, zeros]
    omega
  | cons x xs ih =>
    obtain ⟨count, rfl⟩ : ∃ n, count = n + 1 := ⟨count - 1, by omega⟩
    have hsplit : padTo (size * (count + 1)) ((x :: xs).flatMap f) = f x ++ padTo (size * count) (xs.flatMap f) := by
      have hlen : size * (count + 1) = (f x).length + size * count := by rw [hf, Nat.mul_succ, Nat.add_comm]
      rw [padTo, List.flatMap_cons, List.append_assoc, hlen, List.take_length_add_append,
        take_append_zeros _ (Nat.le_add_left _ _)]
    rw [hsplit]
    cases i with
    | zero => simp [hf]
    | succ i =>
      rw [part_append_right _ _ size (by rw [hf, Nat.mul_succ, Nat.add_comm]), ih (by omega)]
      rfl

theorem leNat_zeros (n : Nat) : leNat (zeros n) = 0 := by
  induction n with
  | zero => rfl
  | succ n ih => rw [zeros, List.replicate_succ, leNat, ← zeros, ih]; rfl

/-! ### The header (R145, R187) -/

/-- R187: the fields of a header, ahead of its zeros. -/
def headerLayout (generation check interval count : Nat) : List (Nat × Nat) :=
  [(4, Config.marker), (2, Config.formatVersion), (4, generation), (2, Config.bodyLength), (4, check), (2, interval), (1, count)]

theorem imageHeader_eq (generation check interval count : Nat) :
    imageHeader generation check interval count = layoutBytes (headerLayout generation check interval count) ++ zeros 237 := by
  have hbytes : imageHeader generation check interval count =
      padTo 256 (layoutBytes (headerLayout generation check interval count)) := by
    simp [imageHeader, layoutBytes, headerLayout]
  have hlen : (layoutBytes (headerLayout generation check interval count)).length = 19 := layoutBytes_length _
  rw [hbytes, padTo_of_le (by omega), hlen]

theorem imageHeader_length (generation check interval count : Nat) :
    (imageHeader generation check interval count).length = 256 := padTo_length ..

theorem imageHeader_rest (generation check interval count : Nat) :
    (imageHeader generation check interval count).drop 19 = zeros 237 := by
  rw [imageHeader_eq]
  exact List.drop_left' (layoutBytes_length _)

section
variable {generation check interval count : Nat}

theorem headerLayout_fits (hgen : generation ≤ 4294967295) (hcheck : check < 4294967296) (hint : interval ≤ 1440)
    (hcount : count ≤ 64) : LayoutFits (headerLayout generation check interval count) := by
  simp only [LayoutFits, headerLayout, List.forall_mem_cons, List.not_mem_nil, false_implies, implies_true, and_true,
    Config.marker, Config.formatVersion, Config.bodyLength]
  omega

/-- R187: the fields of a header. -/
theorem imageHeader_fields (h : LayoutFits (headerLayout generation check interval count)) {header : List Byte}
    (hheader : header = imageHeader generation check interval count) :
    headerMarker header = Config.marker ∧ headerVersion header = Config.formatVersion ∧
      headerGeneration header = generation ∧ headerLength header = Config.bodyLength ∧ headerCheck header = check ∧
      headerInterval header = interval ∧ headerCount header = count := by
  rw [imageHeader_eq] at hheader
  subst hheader
  exact ⟨fieldAt_layoutBytes h _ (k := 0) rfl rfl, fieldAt_layoutBytes h _ (k := 1) rfl rfl,
    fieldAt_layoutBytes h _ (k := 2) rfl rfl, fieldAt_layoutBytes h _ (k := 3) rfl rfl,
    fieldAt_layoutBytes h _ (k := 4) rfl rfl, fieldAt_layoutBytes h _ (k := 5) rfl rfl,
    fieldAt_layoutBytes h _ (k := 6) rfl rfl⟩

end

/-- R145: the check word is a word, and with it the sum of the body is 0. -/
theorem checkWord_sum (body : List Byte) :
    checkWord body < 4294967296 ∧ (wordSum body + checkWord body) % 4294967296 = 0 := by
  simp only [checkWord, Config.two32]
  omega

/-! ### The body (R145, R187) -/

theorem tagBytes_length (tags : List Nat) : (tagBytes tags).length = 32 := padTo_length ..

theorem EpochRecord.bytes_length (r : EpochRecord) : r.bytes.length = 8 := by simp [EpochRecord.bytes]

theorem Entry.recordBytes_length (e : Entry) : e.recordBytes.length = 64 := by simp [Entry.recordBytes, byteList]

theorem imageBody_length (table : List Entry) (pool : List EpochRecord) : (imageBody table pool).length = 8192 := by
  simp [imageBody]

theorem imageBody_eq (table : List Entry) (pool : List EpochRecord) :
    imageBody table pool = padTo (64 * 64) (table.flatMap Entry.recordBytes) ++
      (padTo (8 * 256) (pool.flatMap EpochRecord.bytes) ++ padTo (32 * 64) (table.flatMap fun e => tagBytes e.tags)) :=
  List.append_assoc ..

section
variable (table : List Entry) (pool : List EpochRecord) {i : Nat}

theorem imageBody_entry (hi : i < 64) :
    ((imageBody table pool).drop (64 * i)).take 64 = (table[i]?.map Entry.recordBytes).getD (zeros 64) := by
  rw [imageBody_eq, part_append_left _ (by rw [padTo_length]; omega), part_records Entry.recordBytes_length _ hi]

theorem imageBody_record (hi : i < 256) :
    ((imageBody table pool).drop (4096 + 8 * i)).take 8 = (pool[i]?.map EpochRecord.bytes).getD (zeros 8) := by
  rw [imageBody_eq, part_append_right _ _ 8 (by rw [padTo_length]), part_append_left _ (by rw [padTo_length]; omega),
    part_records EpochRecord.bytes_length _ hi]

theorem imageBody_tags (hi : i < 64) :
    ((imageBody table pool).drop (6144 + 32 * i)).take 32 = (table[i]?.map fun e => tagBytes e.tags).getD (zeros 32) := by
  rw [imageBody_eq, part_append_right _ _ (inner := 2048 + 32 * i) 32 (by rw [padTo_length]; omega),
    part_append_right _ _ 32 (by rw [padTo_length]), part_records (f := fun e : Entry => tagBytes e.tags) (fun e => tagBytes_length e.tags) _ hi]

end

/-- R187: tag j of a tag history, 0 where there is none. -/
theorem tagBytes_field (tags : List Nat) {j : Nat} (hj : j < 8) :
    fieldAt (tagBytes tags) (4 * j) 4 = tags.getD j 0 % 4294967296 := by
  have hpart := part_records (leBytes_length 4) tags hj
  rw [fieldAt, tagBytes, hpart, List.getD_eq_getElem?_getD]
  cases tags[j]? with
  | none => exact leNat_zeros 4
  | some tag => exact leNat_leBytes 4 tag

theorem EpochRecord.bytes_fields {r : EpochRecord} (herrors : r.errors ≤ 4294967295) (hexposure : r.exposure ≤ 4294967295) :
    fieldAt r.bytes 0 4 = r.errors ∧ fieldAt r.bytes 4 4 = r.exposure := by
  have hfits : LayoutFits [(4, r.errors), (4, r.exposure)] := by
    simp only [LayoutFits, List.forall_mem_cons, List.not_mem_nil, false_implies, implies_true, and_true]
    omega
  have hbytes : r.bytes = layoutBytes [(4, r.errors), (4, r.exposure)] ++ [] := by simp [EpochRecord.bytes, layoutBytes]
  rw [hbytes]
  exact ⟨fieldAt_layoutBytes hfits _ (k := 0) rfl rfl, fieldAt_layoutBytes hfits _ (k := 1) rfl rfl⟩

theorem imageBody_tag {table : List Entry} (pool : List EpochRecord) {i j : Nat} {e : Entry} (he : table[i]? = some e)
    (hi : i < 64) (hj : j < 8) :
    fieldAt (imageBody table pool) (6144 + 32 * i + 4 * j) 4 = e.tags.getD j 0 % 4294967296 := by
  rw [fieldAt_part _ rfl (show 4 * j + 4 ≤ 32 by omega), imageBody_tags table pool hi, he]
  exact tagBytes_field e.tags hj

/-- R30, R187: the counts of record n of a sound pool. -/
theorem imageBody_counts {s : State} (hp : PoolSound s) {n : Nat} (hn : n < 256) :
    fieldAt (imageBody s.table s.pool) (4096 + 8 * n) 4 = (recordAt s.pool n).errors ∧
      fieldAt (imageBody s.table s.pool) (4100 + 8 * n) 4 = (recordAt s.pool n).exposure := by
  obtain ⟨hlen, -, -, -, hcounts⟩ := hp
  have hlt : n < s.pool.length := hlen ▸ hn
  obtain ⟨hle, hmax⟩ := hcounts _ (List.getElem_mem hlt)
  have hmax : s.pool[n].exposure ≤ 4294967295 := hmax
  have hrec : recordAt s.pool n = s.pool[n] := by simp [recordAt, hlt]
  have hpart := imageBody_record s.table s.pool hn
  rw [List.getElem?_eq_getElem hlt] at hpart
  rw [fieldAt_part _ (Nat.add_zero _) (show 0 + 4 ≤ 8 by omega),
    fieldAt_part (offset := 4100 + 8 * n) _ (show 4096 + 8 * n + 4 = _ by omega) (show 4 + 4 ≤ 8 by omega), hpart, hrec]
  exact EpochRecord.bytes_fields (by omega) hmax

/-! ### The entry record (R178, R187) -/

theorem testBit_of_div_mod {d i : Nat} {b : Bool} (h : d / 2 ^ i % 2 = b.toNat) : d.testBit i = b :=
  by cases b <;> simp [Nat.testBit_eq_decide_div_mod_eq, h]

/-- R187: the bits of a descriptor byte. -/
theorem descriptor_bits {d kind gate : Nat} {planned saturated settled : Bool} (hkind : kind < 4) (hgate : gate < 4)
    (hd : d = kind + 4 * planned.toNat + 8 * gate + 32 * saturated.toNat + 64 * settled.toNat) :
    d < 128 ∧ d % 4 = kind ∧ d.testBit 2 = planned ∧ d / 8 % 4 = gate ∧ d.testBit 5 = saturated ∧ d.testBit 6 = settled ∧
      d.testBit 7 = false := by
  have hplanned := planned.toNat_le
  have hsaturated := saturated.toNat_le
  have hsettled := settled.toNat_le
  have hclear : false.toNat = 0 := rfl
  refine ⟨?_, ?_, testBit_of_div_mod ?_, ?_, testBit_of_div_mod ?_, testBit_of_div_mod ?_, testBit_of_div_mod ?_⟩ <;> omega

theorem Kind.code_lt (k : Kind) : k.code < 4 := by cases k <;> decide

theorem KindData.gateCode_lt (d : KindData) : d.gateCode < 4 := by
  cases d with
  | runtime g b => cases g <;> simp [KindData.gateCode, Gate.code]
  | _ => simp [KindData.gateCode]

theorem Entry.descriptor_fields (e : Entry) :
    e.descriptor < 128 ∧ e.descriptor % 4 = e.kind.code ∧ e.descriptor.testBit 2 = decide (e.cls = .planned) ∧
      e.descriptor / 8 % 4 = e.data.gateCode ∧ e.descriptor.testBit 5 = e.saturated ∧
      e.descriptor.testBit 6 = e.data.settledFlag ∧ e.descriptor.testBit 7 = false := by
  refine descriptor_bits e.kind.code_lt e.data.gateCode_lt ?_
  unfold Entry.descriptor
  cases e.cls <;> rfl

/-- R178: bit p of a writers byte is port p. -/
theorem writersCode_bits (w : PerPort Bool) :
    writersCode w < 16 ∧ (∀ p, (writersCode w).testBit (portCode p) = w.get p) ∧ writersOf (writersCode w) = w := by
  obtain ⟨a, b, c, d⟩ := w
  refine ⟨?_, fun p => ?_, ?_⟩
  · revert a b c d
    decide
  · cases p <;> (revert a b c d; decide)
  · revert a b c d
    decide

/-- R187: the fields of an entry record that stand ahead of the label. -/
def Entry.recordLayout (e : Entry) : List (Nat × Nat) :=
  let r := e.data.ratioCode
  [(1, e.id), (1, e.descriptor), (1, writersCode e.writers), (1, e.trip), (1, e.hyst), (1, r.depth), (4, e.data.budgetCode),
    (4, r.nominal), (4, r.minExposure), (4, r.epochSize), (6, e.rawTotal), (6, e.data.lifetimeCode), (1, e.score),
    (1, e.worst), (1, e.computed.code), (1, e.label.length)]

theorem Entry.recordBytes_eq (e : Entry) :
    e.recordBytes = layoutBytes e.recordLayout ++
      (padTo 16 e.label ++ (leBytes 1 e.data.closedCount ++ padTo 9 (byteList e.records))) := by
  simp [Entry.recordBytes, Entry.recordLayout, layoutBytes, byteList, leBytes]

theorem Entry.recordLayout_length (e : Entry) : (layoutBytes e.recordLayout).length = 38 := by
  simp [layoutBytes_length, Entry.recordLayout]

/-- R3, R7, R25: the fields of the kind data fit their widths. -/
theorem KindData.Sound.codes_lt {d : KindData} (h : d.Sound) :
    d.ratioCode.depth < 256 ∧ d.budgetCode < 4294967296 ∧ d.ratioCode.nominal < 4294967296 ∧
      d.ratioCode.minExposure < 4294967296 ∧ d.ratioCode.epochSize < 4294967296 ∧ d.lifetimeCode < 281474976710656 ∧
      d.closedCount < 256 := by
  cases d <;>
    simp only [KindData.Sound, Config.max32, Config.max48, KindData.ratioCode, KindData.budgetCode, KindData.lifetimeCode,
      KindData.closedCount] at h ⊢ <;> omega

theorem labelOk_length {l : List Byte} (h : labelOk l = true) : l.length ≤ 16 :=
  of_decide_eq_true (Bool.and_eq_true_iff.1 h).1

theorem Verdict.code_lt (v : Verdict) : v.code < 256 := by cases v <;> decide

section
variable {e : Entry}

theorem Entry.Sound.layout_fits (h : e.Sound) (hid : e.id ≤ 254) : LayoutFits e.recordLayout := by
  obtain ⟨hdepth, hbudget, hnominal, hmin, hepoch, hlife, -⟩ := h.data.codes_lt
  have hdescriptor := e.descriptor_fields.1
  have hwriters := (writersCode_bits e.writers).1
  have htrip := h.trip
  have hhyst := h.hyst
  have hraw : e.rawTotal ≤ 281474976710655 := h.raw
  have hscore : e.score ≤ 200 := Nat.le_trans h.score.2 (by split <;> decide)
  have hworst := h.worst
  have hverdict := e.computed.code_lt
  have hlabel := labelOk_length h.label
  simp only [LayoutFits, Entry.recordLayout, List.forall_mem_cons, List.not_mem_nil, false_implies, implies_true, and_true]
  omega

/-- R187: a field ahead of the label. -/
theorem Entry.Sound.field (h : e.Sound) (hid : e.id ≤ 254) {k offset w n : Nat} (hk : e.recordLayout[k]? = some (w, n))
    (hoffset : ((e.recordLayout.take k).map Prod.fst).sum = offset := by simp [Entry.recordLayout]) :
    fieldAt e.recordBytes offset w = n := by
  rw [Entry.recordBytes_eq]
  exact fieldAt_layoutBytes (h.layout_fits hid) _ hk hoffset

/-- R187: the fields ahead of the label hold what the entry holds. -/
structure Entry.RecordedIn (e : Entry) (rec : List Byte) : Prop where
  id : fieldAt rec 0 1 = e.id
  descriptor : fieldAt rec 1 1 = e.descriptor
  writers : fieldAt rec 2 1 = writersCode e.writers
  trip : fieldAt rec 3 1 = e.trip
  hyst : fieldAt rec 4 1 = e.hyst
  depth : fieldAt rec 5 1 = e.data.ratioCode.depth
  budget : fieldAt rec 6 4 = e.data.budgetCode
  nominal : fieldAt rec 10 4 = e.data.ratioCode.nominal
  minExposure : fieldAt rec 14 4 = e.data.ratioCode.minExposure
  epochSize : fieldAt rec 18 4 = e.data.ratioCode.epochSize
  rawTotal : fieldAt rec 22 6 = e.rawTotal
  lifetime : fieldAt rec 28 6 = e.data.lifetimeCode
  score : fieldAt rec 34 1 = e.score
  worst : fieldAt rec 35 1 = e.worst
  computed : fieldAt rec 36 1 = e.computed.code
  labelLength : fieldAt rec 37 1 = e.label.length

theorem Entry.Sound.recorded (h : e.Sound) (hid : e.id ≤ 254) : e.RecordedIn e.recordBytes where
  id := h.field hid (k := 0) rfl
  descriptor := h.field hid (k := 1) rfl
  writers := h.field hid (k := 2) rfl
  trip := h.field hid (k := 3) rfl
  hyst := h.field hid (k := 4) rfl
  depth := h.field hid (k := 5) rfl
  budget := h.field hid (k := 6) rfl
  nominal := h.field hid (k := 7) rfl
  minExposure := h.field hid (k := 8) rfl
  epochSize := h.field hid (k := 9) rfl
  rawTotal := h.field hid (k := 10) rfl
  lifetime := h.field hid (k := 11) rfl
  score := h.field hid (k := 12) rfl
  worst := h.field hid (k := 13) rfl
  computed := h.field hid (k := 14) rfl
  labelLength := h.field hid (k := 15) rfl

theorem Entry.recordBytes_label (h : labelOk e.label = true) :
    (e.recordBytes.drop 38).take 16 = e.label ++ zeros (16 - e.label.length) := by
  rw [Entry.recordBytes_eq, List.drop_left' e.recordLayout_length, List.take_left' (padTo_length ..),
    padTo_of_le (labelOk_length h)]

theorem Entry.recordBytes_behindLabel (e : Entry) :
    e.recordBytes.drop 54 = leBytes 1 e.data.closedCount ++ padTo 9 (byteList e.records) := by
  have hlen : (layoutBytes e.recordLayout ++ padTo 16 e.label).length = 54 := by
    rw [List.length_append, e.recordLayout_length, padTo_length]
  rw [Entry.recordBytes_eq, ← List.append_assoc, List.drop_left' hlen]

/-- R187: the closed epoch count and the record numbers behind it. -/
theorem Entry.Sound.recordBytes_epochs (h : e.Sound) :
    fieldAt e.recordBytes 54 1 = e.data.closedCount ∧ e.recordBytes.drop 55 = padTo 9 (byteList e.records) := by
  obtain ⟨-, -, -, -, -, -, hclosed⟩ := h.data.codes_lt
  constructor
  · rw [fieldAt, Entry.recordBytes_behindLabel, List.take_left' (leBytes_length ..)]
    exact leNat_leBytes_of_lt hclosed
  · rw [show 55 = 54 + 1 from rfl, ← List.drop_drop, Entry.recordBytes_behindLabel]
    exact List.drop_left' (leBytes_length ..)

theorem Entry.Sound.depth_le (h : e.Sound) {d : RatioDef} {st : RatioState} (hdata : e.data = .ratio d st) :
    d.depth ≤ 8 := by
  have hsound := h.data
  rw [hdata] at hsound
  obtain ⟨-, -, -, ⟨-, hdepth⟩, -⟩ := hsound
  exact hdepth

/-- R30: a sound RATIO entry names depth + 1 records. -/
theorem Entry.Sound.records_length (h : e.Sound) {d : RatioDef} {st : RatioState} (hdata : e.data = .ratio d st) :
    e.records.length = d.depth + 1 := by
  have hsum := (h.ratio_depth hdata).2
  rw [Entry.records, hdata]
  simp only [List.length_append, List.length_cons]
  omega

end

/-! ### The record of an entry, and the capture (R145, R146) -/

section
variable {e : Entry}

/-- R187: a TALLY or RUNTIME entry names no epoch record. -/
theorem Entry.recordBytes_usage (hrecords : e.records = []) (hclosed : e.data.closedCount = 0) :
    e.recordBytes.drop 54 = List.replicate 10 0 := by
  rw [Entry.recordBytes_behindLabel, hrecords, hclosed]
  rfl

/-- R187: a RATIO entry names its depth + 1 epoch records. -/
theorem Entry.Sound.recordBytes_ratio (h : e.Sound) {d : RatioDef} {st : RatioState} (hdata : e.data = .ratio d st) :
    e.recordBytes.drop 55 =
      (st.closed ++ st.opened :: st.spares).map byteOf ++ List.replicate (8 - d.depth) 0 := by
  have hlen := h.records_length hdata
  have hdepth := h.depth_le hdata
  have hle : (byteList e.records).length ≤ 9 := by rw [byteList, List.length_map]; omega
  rw [h.recordBytes_epochs.2, padTo_of_le hle, byteList, List.length_map, hlen, Entry.records, hdata, zeros]
  congr 2
  omega

end

theorem exec_captureJob {s : State} (h : s.arbiterChoice = some .capture) : exec .captureJob s = .next s.capture := by
  simp only [exec, execCaptureJob, h]

theorem nextGeneration_le {g : Nat} (h : g ≤ 4294967295) : nextGeneration g ≤ 4294967295 := by
  unfold nextGeneration
  split
  · decide
  · next hne =>
    have hne : g ≠ 4294967295 := hne
    omega

/-- Settles O45: the entry record is `Entry.Sound.recorded` with the bits of its descriptor and what stands behind the label;
the image of the capture is read by `imageHeader_fields`, `imageBody_entry`, `imageBody_tag` and `imageBody_counts`. -/
theorem captureFillsTheBuffer : Obligations.CaptureFillsTheBuffer := by
  refine ⟨fun e rec h hid hrec => ?_, fun s hgrant htable hpool hgen hint => ?_⟩
  · subst hrec
    have hrec := h.recorded hid
    obtain ⟨-, hkind, hcls, hgate, hsaturated, hsettled, hclear⟩ := e.descriptor_fields
    obtain ⟨hwriters, hports, -⟩ := writersCode_bits e.writers
    rw [hrec.id, hrec.descriptor, hrec.writers, hrec.trip, hrec.hyst, hrec.depth, hrec.budget, hrec.nominal,
      hrec.minExposure, hrec.epochSize, hrec.rawTotal, hrec.lifetime, hrec.score, hrec.worst, hrec.computed,
      hrec.labelLength, hkind, hcls, hgate, hsaturated, hsettled, h.recordBytes_epochs.1]
    refine ⟨e.recordBytes_length, rfl, ?_, ?_, ?_, rfl, hclear, fun p => ?_, hwriters, rfl, rfl, ?_, rfl, rfl, rfl, ?_, rfl,
      Entry.recordBytes_label h.label⟩
    · cases e.kind <;> rfl
    · cases e.cls <;> rfl
    · cases e.data with
      | runtime g b => cases g <;> rfl
      | _ => rfl
    · rw [← hports p]
      cases p <;> rfl
    · cases hdata : e.data with
      | tally b =>
        exact ⟨rfl, rfl, rfl, rfl, rfl, rfl, rfl, Entry.recordBytes_usage (by rw [Entry.records, hdata]) (by rw [hdata]; rfl)⟩
      | runtime g b =>
        exact ⟨rfl, rfl, rfl, rfl, rfl, rfl, rfl, Entry.recordBytes_usage (by rw [Entry.records, hdata]) (by rw [hdata]; rfl)⟩
      | ratio d st => exact ⟨rfl, rfl, rfl, rfl, rfl, rfl, rfl, rfl, h.recordBytes_ratio hdata⟩
    · cases e.computed <;> rfl
  · obtain ⟨hcheck, hsum⟩ := checkWord_sum (imageBody s.table s.pool)
    obtain ⟨hmarker, hversion, hgeneration, hlength, hcheckField, hinterval, hcount⟩ :=
      imageHeader_fields (headerLayout_fits (nextGeneration_le hgen) hcheck hint htable) rfl
    refine ⟨s.capture, _, nextTarget s.snap.newestBank, exec_captureJob hgrant, rfl, ?_, rfl, rfl, rfl, rfl,
      imageHeader_length .., imageBody_length .., hmarker, hversion, hgeneration, hlength, ?_, hinterval, hcount,
      imageHeader_rest .., fun i e he => ?_, fun i hfree hi => ?_, fun n hn => imageBody_counts hpool hn⟩
    · cases s.snap.newestBank with
      | none => rfl
      | some bank => cases bank <;> rfl
    · rw [← hcheckField] at hsum
      exact hsum
    · obtain ⟨hi, -⟩ := List.getElem?_eq_some_iff.1 he
      have hlt : i < 64 := Nat.lt_of_lt_of_le hi htable
      refine ⟨?_, fun j hj => imageBody_tag s.pool he hlt hj⟩
      have hentry := imageBody_entry s.table s.pool hlt
      rw [he] at hentry
      exact hentry
    · have hnone : s.table[i]? = none := List.getElem?_eq_none hfree
      have hentry := imageBody_entry s.table s.pool hi
      have htags := imageBody_tags s.table s.pool hi
      rw [hnone] at hentry htags
      exact ⟨hentry, htags⟩

end Sys2Proof.Machine
end

section
/-!
SUPPORT. A captured image loads back (R171, R173, R174, R176): each entry record, its tags and the epoch records are read as what
they were written from, and a sound table passes every row of the content check.
-/
namespace Sys2Proof.Machine

/-! ### The definition fields of an entry record (R3, R4, R187) -/

/-- R187: a field that is present is not 0, so it is not taken for an absent one. -/
theorem required_storedField {n max : Nat} (hpos : 1 ≤ n) (hmax : n ≤ max) : required 1 max (storedField n) = some n := by
  rw [storedField, if_neg (Nat.one_le_iff_ne_zero.1 hpos)]
  exact if_pos ⟨hpos, hmax⟩

/-- R3, R4: the kind of an entry with its definition fields. -/
def KindData.definition : KindData → KindDef
  | .tally b => .tally b
  | .runtime g b => .runtime g b
  | .ratio d _ => .ratio d

/-- R187: the fields that the record of an entry carries. -/
def Entry.storedFields (e : Entry) : Fields :=
  { kind := some e.kind.code
    cls := some e.cls.code
    gate := storedField e.data.gateCode
    writers := some (writersCode e.writers)
    budget := storedField e.data.budgetCode
    nominal := storedField e.data.ratioCode.nominal
    minExposure := storedField e.data.ratioCode.minExposure
    epochSize := storedField e.data.ratioCode.epochSize
    depth := storedField e.data.ratioCode.depth
    trip := some e.trip
    hyst := some e.hyst
    label := some e.label }

section
variable {e : Entry}

theorem Entry.Sound.recordFields (h : e.Sound) (hid : e.id ≤ 254) : recordFields e.recordBytes = e.storedFields := by
  have hrec := h.recorded hid
  obtain ⟨-, hkind, hcls, hgate, -⟩ := e.descriptor_fields
  have hclsCode : (if decide (e.cls = .planned) = true then 2 else 1) = e.cls.code := by cases e.cls <;> rfl
  have hlabel : (e.recordBytes.drop 38).take e.label.length = e.label := by
    have hle := labelOk_length h.label
    have hpart := Entry.recordBytes_label h.label
    rw [← Nat.min_eq_left hle, ← List.take_take, hpart, List.take_left]
  rw [Machine.recordFields, hrec.descriptor, hrec.writers, hrec.budget, hrec.nominal, hrec.minExposure, hrec.epochSize,
    hrec.depth, hrec.trip, hrec.hyst, hrec.labelLength, hkind, hcls, hgate, hclsCode, hlabel]
  rfl

theorem kindDefOf_storedFields (h : e.data.Sound) : kindDefOf e.storedFields = some e.data.definition := by
  cases hdata : e.data with
  | tally b =>
    rw [hdata] at h
    obtain ⟨hpos, hmax⟩ := h
    have hread : kindDefOf e.storedFields = (required 1 Config.max32 (storedField b)).map .tally := by
      simp only [Entry.storedFields, Entry.kind, hdata]
      rfl
    rw [hread, required_storedField hpos hmax]
    rfl
  | runtime g b =>
    rw [hdata] at h
    obtain ⟨hpos, hmax⟩ := h
    have hread : kindDefOf e.storedFields = (do
        let budget ← required 1 Config.max32 (storedField b)
        some (KindDef.runtime g budget)) := by
      simp only [Entry.storedFields, Entry.kind, hdata]
      cases g <;> rfl
    rw [hread, required_storedField hpos hmax]
    rfl
  | ratio d st =>
    rw [hdata] at h
    obtain ⟨⟨hnominal, hnominalMax⟩, ⟨hmin, hminMax⟩, ⟨hepoch, hepochMax⟩, ⟨hdepth, hdepthMax⟩, -⟩ := h
    have hread : kindDefOf e.storedFields = (do
        let nominal ← required 1 1000000 (storedField d.nominal)
        let minExposure ← required 1 Config.max32 (storedField d.minExposure)
        let epochSize ← required 1 2147483648 (storedField d.epochSize)
        let depth ← required 1 8 (storedField d.depth)
        some (KindDef.ratio { nominal, minExposure, epochSize, depth })) := by
      simp only [Entry.storedFields, Entry.kind, hdata]
      rfl
    rw [hread, required_storedField hnominal hnominalMax, required_storedField hmin hminMax,
      required_storedField hepoch hepochMax, required_storedField hdepth hdepthMax]
    rfl

/-- R3 to R5, R174: the definition fields of a sound entry are read back as they were defined. -/
theorem Entry.Sound.definitionOf (h : e.Sound) :
    definitionOf e.storedFields = some
      { kind := e.data.definition, cls := e.cls, writers := e.writers, trip := e.trip, hyst := e.hyst, label := e.label } := by
  obtain ⟨hwriters, -, hread⟩ := writersCode_bits e.writers
  have hw : optional 0 15 15 (some (writersCode e.writers)) = some (writersCode e.writers) :=
    if_pos ⟨Nat.zero_le _, Nat.le_of_lt_succ hwriters⟩
  have ht : required 0 199 (some e.trip) = some e.trip := if_pos ⟨Nat.zero_le _, h.trip⟩
  have hh : optional 1 50 5 (some e.hyst) = some e.hyst := if_pos h.hyst
  have hc : classOf (some e.cls.code) = some e.cls := by cases e.cls <;> rfl
  unfold Machine.definitionOf
  rw [kindDefOf_storedFields h.data]
  simp [Entry.storedFields, hw, ht, hh, hc, h.label, hread]

/-! ### The state fields of an entry record (R174, R187) -/

theorem verdictOf_code (v : Verdict) : verdictOf v.code = some v := by cases v <;> rfl

theorem map_toNat_byteList {ns : List Nat} (h : ∀ n ∈ ns, n < 256) : (byteList ns).map BitVec.toNat = ns := by
  rw [byteList, List.map_map]
  refine (List.map_congr_left fun n hn => ?_).trans (List.map_id ns)
  exact (byteOf_toNat n).trans (Nat.mod_eq_of_lt (h n hn))

/-- R187: the record numbers of an entry record, those of the entry before the unused ones. -/
theorem Entry.Sound.recordNumbers (h : e.Sound) (hrecords : ∀ n ∈ e.records, n < 256) (hlen : e.records.length ≤ 9) :
    recordNumbers e.recordBytes = e.records ++ List.replicate (9 - e.records.length) 0 := by
  have hle : (byteList e.records).length ≤ 9 := by rw [byteList, List.length_map]; exact hlen
  rw [Machine.recordNumbers, h.recordBytes_epochs.2, List.take_of_length_le (Nat.le_of_eq (padTo_length ..)),
    padTo_of_le hle, List.map_append, map_toNat_byteList hrecords, byteList, List.length_map, zeros, List.map_replicate]
  rfl

/-- R174: the kind data of a sound entry are read back. -/
theorem Entry.Sound.recordData (h : e.Sound) (hid : e.id ≤ 254) (hrecords : ∀ n ∈ e.records, n < 256) :
    recordData e.recordBytes e.data.definition = some e.data := by
  have hrec := h.recorded hid
  obtain ⟨-, -, -, -, -, hsettled, -⟩ := e.descriptor_fields
  have hclosed := h.recordBytes_epochs.1
  have hlife := hrec.lifetime
  have hnumbers := h.recordNumbers hrecords
  rw [← hrec.descriptor] at hsettled
  cases hdata : e.data with
  | tally b =>
    rw [Entry.records, hdata] at hnumbers
    simp [KindData.definition, Machine.recordData, hclosed, hlife, hnumbers, hdata, KindData.closedCount, KindData.lifetimeCode]
  | runtime g b =>
    rw [Entry.records, hdata] at hnumbers
    simp [KindData.definition, Machine.recordData, hclosed, hlife, hnumbers, hdata, KindData.closedCount, KindData.lifetimeCode]
  | ratio d st =>
    have hlen := h.records_length hdata
    have hsum := (h.ratio_depth hdata).2
    have hdepth := h.depth_le hdata
    have htake : (Machine.recordNumbers e.recordBytes).take (d.depth + 1) = st.closed ++ st.opened :: st.spares := by
      rw [hnumbers (by omega), List.take_left' hlen, Entry.records, hdata]
    rw [hdata] at hclosed hlife hsettled
    have hc : fieldAt e.recordBytes 54 1 = st.closed.length := hclosed
    simp only [KindData.definition, Machine.recordData, htake, hc, hlife, hsettled]
    rw [if_pos ⟨by omega, by simp; omega⟩]
    simp [KindData.lifetimeCode, KindData.settledFlag]

/-- R174: scores, verdicts and tags of a sound entry agree with its kind and class. -/
theorem Entry.Sound.contentOk (h : e.Sound) : e.contentOk = true := by
  obtain ⟨hscore, hscoreMax⟩ := h.score
  obtain ⟨hworst, hworstMax, hworstScore⟩ := h.worst
  obtain ⟨-, hnodup, -⟩ := h.tags
  have hunsettled : (!e.unsettled || decide (e.score = 100)) = true := by
    cases hu : e.unsettled with
    | false => rfl
    | true => exact decide_eq_true (h.unsettled hu)
  have hsettling : (decide (e.computed = .settling) == e.unsettled) = true := by
    rw [beq_iff_eq, Bool.eq_iff_iff, decide_eq_true_iff]
    exact h.settling
  have hheld : (decide (e.computed ≠ .held) || decide (e.cls = .urgent)) = true := by
    rw [Bool.or_eq_true, decide_eq_true_iff, decide_eq_true_iff]
    exact Decidable.not_or_of_imp h.held
  have htags : (decide (e.kind ≠ .runtime) || e.tags.isEmpty) = true := by
    rw [Bool.or_eq_true, decide_eq_true_iff, List.isEmpty_iff]
    exact Decidable.not_or_of_imp h.runtimeTags
  simp only [Entry.contentOk, hscore, hscoreMax, hunsettled, hworst, hworstMax, hworstScore, hsettling, hheld, htags, hnodup,
    decide_true, Bool.and_self]

end

/-! ### The tag history (R70, R187) -/

/-- R187: the tags before the first 0. -/
theorem takeWhile_tags {tags : List Nat} (hpos : ∀ t ∈ tags, 1 ≤ t) {n : Nat} (hlen : tags.length ≤ n) :
    (((List.range n).map fun j => tags.getD j 0).takeWhile fun t => decide (t ≠ 0)) = tags := by
  induction tags generalizing n with
  | nil => cases n <;> simp [List.range_succ_eq_map]
  | cons t tags ih =>
    obtain ⟨ht, htags⟩ := List.forall_mem_cons.1 hpos
    obtain ⟨n, rfl⟩ : ∃ m, n = m + 1 := ⟨n - 1, by simp at hlen; omega⟩
    have hne : t ≠ 0 := Nat.one_le_iff_ne_zero.1 ht
    have hrest := ih htags (Nat.le_of_succ_le_succ hlen)
    simp only [List.range_succ_eq_map, List.map_cons, List.map_map, List.getD_cons_zero, Function.comp_def,
      List.getD_cons_succ, List.takeWhile_cons, hne, ne_eq, not_false_eq_true, decide_true, if_true] at hrest ⊢
    rw [hrest]

section
variable {table : List Entry} (pool : List EpochRecord) {i : Nat} {e : Entry}

theorem tagHistory_imageBody (he : table[i]? = some e) (hi : i < 64) (h : e.Sound) :
    tagHistory (imageBody table pool) i = e.tags := by
  obtain ⟨hlen, -, hrange⟩ := h.tags
  have hread : ∀ j ∈ List.range 8, fieldAt (imageBody table pool) (6144 + 32 * i + 4 * j) 4 = e.tags.getD j 0 := by
    intro j hj
    rw [imageBody_tag pool he hi (List.mem_range.1 hj), List.getD_eq_getElem?_getD]
    cases htag : e.tags[j]? with
    | none => rfl
    | some tag =>
      have hmax : tag ≤ 4294967295 := (hrange tag (List.mem_of_getElem? htag)).2
      exact Nat.mod_eq_of_lt (Nat.lt_succ_of_le hmax)
  rw [tagHistory, List.map_congr_left hread]
  exact takeWhile_tags (fun t ht => (hrange t ht).1) hlen

/-! ### The entries of a body (R174, R176) -/

/-- R174, R176: the entry that an entry record holds is the one that was written, with its override NONE. -/
theorem recordEntry_imageBody (he : table[i]? = some e) (hi : i < 64) (h : e.Sound) (hpos : 1 ≤ e.id) (hid : e.id ≤ 254)
    (hrecords : ∀ n ∈ e.records, n < 256) : recordEntry (imageBody table pool) i = some e.dropOverride := by
  have hentry : entryRecord (imageBody table pool) i = e.recordBytes := by
    rw [entryRecord, imageBody_entry table pool hi, he]
    rfl
  have hrec := h.recorded hid
  obtain ⟨-, -, -, -, hsaturated, -, -⟩ := e.descriptor_fields
  have hrange : ¬ (e.id = 0 ∨ 254 < e.id) := by omega
  have hcontent : e.dropOverride.contentOk = true := h.contentOk
  simp only [recordEntry, hentry, hrec.id, if_neg hrange, h.recordFields hid, h.definitionOf, h.recordData hid hrecords,
    hrec.computed, verdictOf_code, hrec.rawTotal, hrec.descriptor, hsaturated, hrec.score, hrec.worst,
    tagHistory_imageBody pool he hi h, Option.bind_eq_bind, Option.bind_some]
  exact if_pos hcontent

end

/-! ### A whole table and its pool (R174, R176) -/

theorem collect_map_some (xs : List α) : collect (xs.map some) = some xs := by
  induction xs with
  | nil => rfl
  | cons x xs ih => rw [List.map_cons, collect, ih]; rfl

theorem sortEntries_sorted {es : List Entry} (h : es.Pairwise fun x y => x.id < y.id) : sortEntries es = es := by
  induction es with
  | nil => rfl
  | cons e es ih =>
    obtain ⟨hhead, hrest⟩ := List.pairwise_cons.1 h
    rw [sortEntries, List.foldr_cons, ← sortEntries, ih hrest]
    cases es with
    | nil => rfl
    | cons x xs => exact if_pos (hhead x (List.mem_cons_self ..))

theorem filter_range_lt {n m : Nat} (h : n ≤ m) {p : Nat → Bool} (hp : ∀ k < m, p k = decide (k < n)) :
    (List.range m).filter p = List.range n := by
  obtain ⟨d, rfl⟩ := Nat.exists_eq_add_of_le h
  rw [List.range_add, List.filter_append, List.filter_eq_self.2, List.filter_eq_nil_iff.2, List.append_nil]
  · intro k hk
    obtain ⟨j, hj, rfl⟩ := List.mem_map.1 hk
    have hj := List.mem_range.1 hj
    simp [hp (n + j) (by omega)]
  · intro k hk
    have hk := List.mem_range.1 hk
    simp [hp k (by omega), hk]

/-- R41, R176: an override does not touch the records that an entry holds. -/
theorem heldRecords_dropOverride (table : List Entry) : heldRecords (table.map Entry.dropOverride) = heldRecords table :=
  List.flatMap_map ..

section
variable {s : State}

/-- R187: the records in use are those of the entries. -/
theorem usedRecords_imageBody (htable : TableSound s) (hentries : EntriesSound s) :
    usedRecords (imageBody s.table s.pool) = List.range s.table.length := by
  obtain ⟨hlen, -, hids⟩ := htable
  refine filter_range_lt hlen fun k hk => ?_
  rw [fieldAt_part _ (Nat.add_zero _) (show 0 + 1 ≤ 64 by omega), imageBody_entry s.table s.pool hk]
  cases he : s.table[k]? with
  | none =>
    have hge := List.getElem?_eq_none_iff.1 he
    simp [Nat.not_lt.2 hge, zeros, fieldAt, leNat]
  | some e =>
    obtain ⟨hlt, rfl⟩ := List.getElem?_eq_some_iff.1 he
    obtain ⟨hpos, hmax⟩ := hids _ (List.getElem_mem hlt)
    have hid : fieldAt s.table[k].recordBytes 0 1 = s.table[k].id := ((hentries _ (List.getElem_mem hlt)).recorded hmax).id
    simp only [Option.map_some, Option.getD_some, hid, hlt, Nat.one_le_iff_ne_zero.1 hpos, ne_eq, not_false_eq_true,
      decide_true]

theorem recordEntries_imageBody (htable : TableSound s) (hentries : EntriesSound s) (hpool : PoolSound s) :
    (List.range s.table.length).map (recordEntry (imageBody s.table s.pool)) =
      (s.table.map Entry.dropOverride).map some := by
  obtain ⟨hlen, -, hids⟩ := htable
  obtain ⟨-, -, hheld, -⟩ := hpool
  refine List.ext_getElem (by simp) fun i hi _ => ?_
  have hi : i < s.table.length := by simpa using hi
  have hmem := List.getElem_mem hi
  obtain ⟨hpos, hmax⟩ := hids _ hmem
  simpa using recordEntry_imageBody s.pool (List.getElem?_eq_getElem hi) (Nat.lt_of_lt_of_le hi hlen) (hentries _ hmem) hpos
    hmax fun n hn => hheld n (mem_heldRecords.2 ⟨_, hmem, hn⟩)

theorem imagePool_imageBody (hpool : PoolSound s) : imagePool (imageBody s.table s.pool) = s.pool := by
  have hlen : s.pool.length = 256 := hpool.1
  refine List.ext_getElem (by simp [imagePool, hlen, Config.poolSize]) fun n hn hn' => ?_
  obtain ⟨herrors, hexposure⟩ := imageBody_counts hpool (hlen ▸ hn')
  have hrec : recordAt s.pool n = s.pool[n] := by simp [recordAt, hn']
  simp only [imagePool, List.getElem_map, List.getElem_range, herrors, hexposure, hrec]

/-- R174: a sound pool passes the check of the epoch records. -/
theorem poolOk_of_sound (hpool : PoolSound s) : poolOk (s.table.map Entry.dropOverride) s.pool = true := by
  obtain ⟨-, hnodup, -, hfree, hcounts⟩ := hpool
  have hrecordFree : recordFree (s.table.map Entry.dropOverride) = recordFree s.table := by
    funext n
    rw [recordFree, recordFree, heldRecords_dropOverride]
  have hzero : ∀ n ∈ List.range Config.poolSize, (!recordFree s.table n || decide (recordAt s.pool n = .zero)) = true := by
    intro n _
    cases h : recordFree s.table n with
    | false => rfl
    | true => exact decide_eq_true (hfree n h)
  have hle : ∀ r ∈ s.pool, decide (r.errors ≤ r.exposure) = true := fun r hr => decide_eq_true (hcounts r hr).1
  rw [poolOk, heldRecords_dropOverride, hrecordFree, List.all_eq_true.2 hzero, List.all_eq_true.2 hle, decide_eq_true hnodup]
  rfl

/-- R174, R176: the content check passes a captured image, and what it loads is what was captured. -/
theorem loadImage_imageBody (htable : TableSound s) (hentries : EntriesSound s) (hpool : PoolSound s) {header : List Byte}
    (hinterval : headerInterval header ≤ 1440) (hcount : headerCount header = s.table.length) :
    loadImage ⟨header, imageBody s.table s.pool⟩ = some (s.table.map Entry.dropOverride, s.pool) := by
  have hids : ((s.table.map Entry.dropOverride).map Entry.id).Nodup := by
    rw [List.map_map]
    exact htable.ids_nodup
  have hsorted : (s.table.map Entry.dropOverride).Pairwise fun x y => x.id < y.id := List.pairwise_map.2 htable.2.1
  have hused : (usedRecords (imageBody s.table s.pool)).length = headerCount header := by
    rw [usedRecords_imageBody htable hentries, List.length_range, hcount]
  rw [loadImage, if_pos ⟨hinterval, hcount ▸ htable.1, hused⟩]
  simp only [usedRecords_imageBody htable hentries, recordEntries_imageBody htable hentries hpool, collect_map_some,
    imagePool_imageBody hpool, sortEntries_sorted hsorted]
  exact if_pos ⟨hids, poolOk_of_sound hpool⟩

end

/-- Settles O54: the header's fields are `imageHeader_fields`, the check word `checkWord_sum`, and the content check is
`loadImage_imageBody`. -/
theorem capturedImageLoadsBack : Obligations.CapturedImageLoadsBack := by
  intro s generation interval htable hentries hpool hpos hgen hint
  obtain ⟨hcheck, hsum⟩ := checkWord_sum (imageBody s.table s.pool)
  obtain ⟨hmarker, hversion, hgeneration, hlength, hcheckField, hinterval, hcount⟩ :=
    imageHeader_fields (headerLayout_fits hgen hcheck hint htable.1) rfl
  refine ⟨?_, ?_, hinterval, loadImage_imageBody htable hentries hpool (hinterval.symm ▸ hint) hcount⟩
  · have hplausible := And.intro hmarker (And.intro hversion (And.intro hlength
      (hgeneration.symm ▸ Nat.one_le_iff_ne_zero.1 hpos)))
    exact (if_pos hplausible).trans (congrArg HeaderVerdict.plausible hgeneration)
  · rw [← hcheckField] at hsum
    exact decide_eq_true hsum

end Sys2Proof.Machine
end

section
/-!
SUPPORT. The flash transactions of the memory link (chapter 9): its outputs in each half of an MCK period (R159, R168), the bytes
of each transaction (R188, R189), and what the completion of each leaves (R162 to R166).
-/
namespace Sys2Proof.Machine

/-! ### Bits and levels (R159, R168) -/

/-- R159: the link shifts a byte most significant bit first. -/
theorem bitsOfByte_getElem? (b : Byte) {j : Nat} (hj : j < 8) : (bitsOfByte b)[j]? = some (b.getLsbD (7 - j)) := by
  have hrange : bitsOfByte b = (List.range 8).map fun j => b.getLsbD (7 - j) := rfl
  rw [hrange, List.getElem?_map, List.getElem?_range hj, Option.map_some]

/-- R159: the outputs in half n of the MCK periods that carry a train of bits. -/
theorem flatMap_bitLevels_getElem? (bits : List Bool) (n : Nat) :
    (bits.flatMap bitLevels)[n]? = bits[n / 2]?.map fun bit => ⟨true, decide (n % 2 = 1), bit⟩ := by
  induction bits generalizing n with
  | nil => rfl
  | cons bit bits ih =>
    match n with
    | 0 => rfl
    | 1 => rfl
    | n + 2 =>
      have hlevels : ((bit :: bits).flatMap bitLevels)[n + 2]? = (bits.flatMap bitLevels)[n]? := rfl
      rw [hlevels, ih, Nat.add_div_right n Nat.two_pos, List.getElem?_cons_succ, Nat.add_mod_right]

theorem sentLevels_cons (b : Byte) (bytes : List Byte) :
    sentLevels (b :: bytes) =
      ([7, 6, 5, 4, 3, 2, 1, 0].flatMap fun i => [⟨true, false, b.getLsbD i⟩, ⟨true, true, b.getLsbD i⟩]) ++
        sentLevels bytes := by
  rw [sentLevels, List.flatMap_cons, List.flatMap_append]
  rfl

section
variable (x : FlashTransaction) (free : Nat)

/-- R159: through the bytes sent and taken MCS_N is asserted, and MCK is high in the second half of each of its periods. -/
theorem FlashTransaction.levels_clock {n : Nat} (hn : n < 16 * (x.sent.length + x.taken)) :
    ((x.levels free).getD n .rest).mcs = true ∧ ((x.levels free).getD n .rest).mck = decide (n % 2 = 1) := by
  obtain ⟨level, hlevel⟩ : ∃ level, (x.levels free)[n]? = some level :=
    ⟨_, List.getElem?_eq_getElem (x.levels_length free ▸ hn)⟩
  rw [List.getD_eq_getElem?_getD, hlevel, Option.getD_some]
  rw [FlashTransaction.levels_eq, flatMap_bitLevels_getElem?, Option.map_eq_some_iff] at hlevel
  obtain ⟨bit, -, rfl⟩ := hlevel
  exact ⟨rfl, rfl⟩

/-- R159: in both halves of period j of byte i, MDO has the level of that bit, most significant first. -/
theorem FlashTransaction.levels_mdo {n i j : Nat} {b : Byte} (hb : x.sent[i]? = some b) (hj : j < 8)
    (hn : n / 2 = 8 * i + j) : ((x.levels free).getD n .rest).mdo = b.getLsbD (7 - j) := by
  obtain ⟨hi, -⟩ := List.getElem?_eq_some_iff.1 hb
  have hsent : n / 2 < (x.sent.flatMap bitsOfByte).length := by rw [flatMap_bitsOfByte_length]; omega
  have hdiv : n / 2 / 8 = i := by omega
  have hmod : n / 2 % 8 = j := by omega
  rw [List.getD_eq_getElem?_getD, FlashTransaction.levels_eq, flatMap_bitLevels_getElem?,
    List.getElem?_append_left hsent, getElem?_flatMap_bitsOfByte, hdiv, hmod, hb, Option.bind_some, bitsOfByte_getElem? b hj]
  rfl

/-- R168: behind the last half of a transaction the outputs rest. -/
theorem FlashTransaction.levels_behind {n : Nat} (hn : 16 * (x.sent.length + x.taken) ≤ n) :
    (x.levels free).getD n .rest = .rest := by
  rw [List.getD_eq_getElem?_getD, List.getElem?_eq_none (x.levels_length free ▸ hn), Option.getD_none]

end

/-- R159: within a transaction the outputs of the link are the levels of the transaction. -/
theorem State.flashSignals_transaction {s : State} {x : FlashTransaction} (h : s.transaction = some x) (n : Nat) :
    s.flashSignals (some n) = (x.levels s.freeIndex).getD n .rest := by
  simp only [State.flashSignals, h]

/-- R168: the outputs rest from the start of a device reset. -/
theorem exec_deviceReset_flashSignals {s t : State} (h : exec .deviceReset s = .next t) (moment : Option Nat) :
    t.flashSignals moment = .rest := by
  obtain rfl := Host.Outcome.next.inj h
  exact State.flashSignals_rest (.inl rfl) moment

/-! ### Bits taken from MDI (R159) -/

theorem bytesOfBits_flatMap (bytes : List Byte) : bytesOfBits (bytes.flatMap bitsOfByte) = bytes := by
  simpa using bytesOfBits_train bytes (extra := []) (by decide)

theorem bytesOfBits_length {n : Nat} {bits : List Bool} (h : bits.length = 8 * n) : (bytesOfBits bits).length = n := by
  induction n generalizing bits with
  | zero => rw [List.length_eq_zero_iff.1 h]; rfl
  | succ n ih =>
    match bits, h with
    | b7 :: b6 :: b5 :: b4 :: b3 :: b2 :: b1 :: b0 :: bits, h =>
      rw [bytesOfBits, List.length_cons, ih (Nat.add_right_cancel (m := 8) h)]

theorem statusReadOfBits_bitsOfByte (status : Byte) : statusReadOfBits (bitsOfByte status) = some (.statusRead status) := by
  have hbytes : bytesOfBits (bitsOfByte status) = [status] := by simpa using bytesOfBits_flatMap [status]
  rw [statusReadOfBits, hbytes]

/-- R159: what a status read takes amounts to a status read command or to none. -/
theorem statusReadOfBits_eq_some {bits : List Bool} {c : Instr} (h : statusReadOfBits bits = some c) :
    ∃ status, c = .statusRead status := by
  unfold statusReadOfBits at h
  split at h
  · exact ⟨_, (Option.some.inj h).symm⟩
  all_goals cases h

/-! ### Addresses and the bytes of a page (R158, R164, R189) -/

theorem addressBytes_eq (a : Nat) : addressBytes a = [byteOf (a / 65536), byteOf (a / 256), byteOf a] := by
  have hdiv : a / 256 / 256 = a / 65536 := Nat.div_div_eq_div_mul a 256 256
  rw [← hdiv]
  rfl

theorem Snapshot.pageData_buffer {n : Snapshot} {image : Image} (hbuffer : n.buffer = some image) (page : Nat) :
    n.pageData page = if page = 0 then image.header else (image.body.drop (256 * (page - 1))).take 256 := by
  simp only [Snapshot.pageData, hbuffer]
  rfl

/-! ### What the clients leave of the link

A client that hears of the end of its operation hands over the next one or leaves the link in IDLE; the bytes last sent stand. -/

@[simp] theorem Link.hand_mdo (l : Link) (op : LinkOp) : (l.hand op).mdo = l.mdo := rfl

@[simp] theorem State.endStartup_link (s : State) (table : List Entry) (pool : List EpochRecord) (proved : Option Bank)
    (generation interval : Nat) : (s.endStartup table pool proved generation interval).link = s.link := rfl

@[simp] theorem State.snapshotSuccess_link (s : State) (image : Image) : (s.snapshotSuccess image).link = s.link := by
  simp [State.snapshotSuccess]

@[simp] theorem State.snapshotFailure_link (s : State) : s.snapshotFailure.link = s.link := by
  simp [State.snapshotFailure]

@[simp] theorem State.attemptFailure_mdo (s : State) : s.attemptFailure.link.mdo = s.link.mdo := by
  unfold State.attemptFailure
  split <;> simp

@[simp] theorem State.writeCompleted_mdo (s : State) (op : FlashOp) : (s.writeCompleted op).link.mdo = s.link.mdo := by
  cases op with
  | erase k => rw [State.writeCompleted]; split <;> rfl
  | program n =>
    rw [State.writeCompleted]
    split
    · rfl
    · split <;> rfl
  | read n => rfl

@[simp] theorem State.verifyPage_mdo (s : State) (n : Nat) (data : List Byte) :
    (s.verifyPage n data).link.mdo = s.link.mdo := by
  unfold State.verifyPage
  split
  · exact State.attemptFailure_mdo s
  · next image _ =>
    split
    · exact State.attemptFailure_mdo s
    · split
      · split
        · rw [State.snapshotSuccess_link]
        · exact State.attemptFailure_mdo s
      · split <;> rfl

@[simp] theorem State.tryNext_mdo (s : State) : s.tryNext.link.mdo = s.link.mdo := by
  unfold State.tryNext
  split <;> rfl

@[simp] theorem State.bankFailed_mdo (s : State) : s.bankFailed.link.mdo = s.link.mdo := State.tryNext_mdo _

@[simp] theorem State.judgeBank_mdo (s : State) (image : Image) (sum : Nat) :
    (s.judgeBank image sum).link.mdo = s.link.mdo := by
  unfold State.judgeBank
  split
  · split <;> simp
  · simp

@[simp] theorem State.bodyPageRead_mdo (s : State) (n : Nat) (data : List Byte) :
    (s.bodyPageRead n data).link.mdo = s.link.mdo := by
  unfold State.bodyPageRead
  dsimp only
  split <;> simp

@[simp] theorem State.startupPage_mdo (s : State) (n : Nat) (data : List Byte) :
    (s.startupPage n data).link.mdo = s.link.mdo := by
  unfold State.startupPage
  split
  · rfl
  · exact State.tryNext_mdo _
  · exact State.bodyPageRead_mdo s n data
  · rfl

@[simp] theorem State.writeDone_mdo (s : State) (o : LinkOp) : (s.writeDone o).link.mdo = s.link.mdo :=
  State.writeCompleted_mdo _ o.op

@[simp] theorem State.readDone_mdo (s : State) (o : LinkOp) (n : Nat) (data : List Byte) :
    (s.readDone o n data).link.mdo = s.link.mdo := by
  unfold State.readDone
  split <;> simp

section
variable {s : State} {o : LinkOp}

/-! ### The transaction of the link (R162 to R166) -/

theorem State.transaction_wait (hreset : s.pins.resetN = false) (hop : s.link.op = some o)
    (hphase : s.link.phase = .readyWait ∨ s.link.phase = .busyWait) : s.transaction = some .statusRead := by
  rcases hphase with hphase | hphase <;> simp [State.transaction, hreset, hop, hphase]

theorem State.transaction_writeEnable (hreset : s.pins.resetN = false) (hop : s.link.op = some o)
    (hphase : s.link.phase = .command) (hwrites : o.op.writes = true) (henabled : s.link.writeEnabled = false) :
    s.transaction = some .writeEnable := by
  obtain ⟨op, bank, client⟩ := o
  cases op with
  | erase k => simp [State.transaction, hreset, hop, hphase, henabled]
  | program n => simp [State.transaction, hreset, hop, hphase, henabled]
  | read n => cases hwrites

theorem State.transaction_erase (hreset : s.pins.resetN = false) (hop : s.link.op = some o)
    (hphase : s.link.phase = .command) (henabled : s.link.writeEnabled = true) {k : Nat} (herase : o.op = .erase k) :
    s.transaction = some (.sectorErase (sectorAddress o.bank k)) := by
  obtain ⟨op, bank, client⟩ := o
  subst herase
  simp [State.transaction, hreset, hop, hphase, henabled]

theorem State.transaction_program (hreset : s.pins.resetN = false) (hop : s.link.op = some o)
    (hphase : s.link.phase = .command) (henabled : s.link.writeEnabled = true) {n : Nat} (hprogram : o.op = .program n) :
    s.transaction = some (.pageProgram (pageAddress o.bank n) (s.snap.pageData n)) := by
  obtain ⟨op, bank, client⟩ := o
  subst hprogram
  simp [State.transaction, hreset, hop, hphase, henabled]

theorem State.transaction_read (hreset : s.pins.resetN = false) (hop : s.link.op = some o)
    (hphase : s.link.phase = .command) {n : Nat} (hread : o.op = .read n) :
    s.transaction = some (.pageRead (pageAddress o.bank n)) := by
  obtain ⟨op, bank, client⟩ := o
  subst hread
  simp [State.transaction, hreset, hop, hphase]

/-- A transaction needs an operation in hand and RESET_N deasserted. -/
theorem State.transaction_operation {x : FlashTransaction} (h : s.transaction = some x) :
    s.pins.resetN = false ∧ s.link.phase ≠ .idle ∧ ∃ o, s.link.op = some o := by
  cases hreset : s.pins.resetN with
  | true => rw [State.transaction_none (.inr hreset)] at h; cases h
  | false =>
    cases hop : s.link.op with
    | none => rw [State.transaction_none (.inl hop)] at h; cases h
    | some o =>
      refine ⟨rfl, fun hidle => ?_, o, rfl⟩
      simp [State.transaction, hreset, hop, hidle] at h

/-- R162 to R166: the transaction of the link, by its phase and the operation in hand. -/
theorem State.transaction_cases {x : FlashTransaction} (h : s.transaction = some x) :
    ∃ o, s.link.op = some o ∧
      ((s.link.phase = .readyWait ∨ s.link.phase = .busyWait) ∧ x = .statusRead ∨
       s.link.phase = .command ∧
        (o.op.writes = true ∧ s.link.writeEnabled = false ∧ x = .writeEnable ∨
         (∃ k, o.op = .erase k ∧ s.link.writeEnabled = true ∧ x = .sectorErase (sectorAddress o.bank k)) ∨
         (∃ n, o.op = .program n ∧ s.link.writeEnabled = true ∧
           x = .pageProgram (pageAddress o.bank n) (s.snap.pageData n)) ∨
         ∃ n, o.op = .read n ∧ x = .pageRead (pageAddress o.bank n))) := by
  obtain ⟨hreset, hidle, o, hop⟩ := State.transaction_operation h
  have same {y : FlashTransaction} (hy : s.transaction = some y) : x = y := Option.some.inj (h.symm.trans hy)
  refine ⟨o, hop, ?_⟩
  cases hphase : s.link.phase with
  | idle => exact absurd hphase hidle
  | readyWait => exact .inl ⟨.inl rfl, same (State.transaction_wait hreset hop (.inl hphase))⟩
  | busyWait => exact .inl ⟨.inr rfl, same (State.transaction_wait hreset hop (.inr hphase))⟩
  | command =>
    refine .inr ⟨rfl, ?_⟩
    by_cases hwriteEnable : o.op.writes = true ∧ s.link.writeEnabled = false
    · obtain ⟨hwrites, henabled⟩ := hwriteEnable
      exact .inl ⟨hwrites, henabled, same (State.transaction_writeEnable hreset hop hphase hwrites henabled)⟩
    · have enabled (hwrites : o.op.writes = true) : s.link.writeEnabled = true := by
        simpa [hwrites] using hwriteEnable
      refine .inr ?_
      cases hkind : o.op with
      | erase k =>
        have henabled := enabled (by rw [hkind]; rfl)
        exact .inl ⟨k, rfl, henabled, same (State.transaction_erase hreset hop hphase henabled hkind)⟩
      | program n =>
        have henabled := enabled (by rw [hkind]; rfl)
        exact .inr (.inl ⟨n, rfl, henabled, same (State.transaction_program hreset hop hphase henabled hkind)⟩)
      | read n => exact .inr (.inr ⟨n, rfl, same (State.transaction_read hreset hop hphase hkind)⟩)

/-! ### Completed transactions (R162 to R166) -/

theorem exec_statusRead_busy (hop : s.link.op = some o) (hphase : s.link.phase = .readyWait ∨ s.link.phase = .busyWait)
    {status : Byte} (hbusy : busyBit status = true) : exec (.statusRead status) s = .next (s.sent [cmdStatus]) := by
  rcases hphase with hphase | hphase <;> simp [exec, execStatusRead, hop, hphase, hbusy]

theorem exec_statusRead_ready (hop : s.link.op = some o) (hphase : s.link.phase = .readyWait) {status : Byte}
    (hready : busyBit status = false) :
    exec (.statusRead status) s =
      .next { s with link := { s.link with phase := .command, timer := none, mdo := [cmdStatus] } } := by
  simp [exec, execStatusRead, hop, hphase, hready, State.sent]

theorem exec_statusRead_done (hop : s.link.op = some o) (hphase : s.link.phase = .busyWait) {status : Byte}
    (hready : busyBit status = false) :
    exec (.statusRead status) s = .next ((s.sent [cmdStatus]).writeDone o) := by
  simp [exec, execStatusRead, hop, hphase, hready]

theorem exec_writeEnable_enables (hop : s.link.op = some o) (hphase : s.link.phase = .command)
    (hwrites : o.op.writes = true) (henabled : s.link.writeEnabled = false) :
    exec .writeEnable s = .next { s with link := { s.link with writeEnabled := true, mdo := [cmdWriteEnable] } } := by
  obtain ⟨op, bank, client⟩ := o
  cases op with
  | erase k => simp [exec, execWriteEnable, hop, hphase, henabled]
  | program n => simp [exec, execWriteEnable, hop, hphase, henabled]
  | read n => cases hwrites

theorem exec_sectorErase_waits (hop : s.link.op = some o) (hphase : s.link.phase = .command)
    (henabled : s.link.writeEnabled = true) {k : Nat} (herase : o.op = .erase k) :
    exec .sectorEraseTransaction s =
      .next { s with link := s.link.startBusyWait Config.longLimit (cmdErase :: addressBytes (sectorAddress o.bank k)) } := by
  obtain ⟨op, bank, client⟩ := o
  subst herase
  simp [exec, execSectorEraseTransaction, hop, hphase, henabled, LinkOp.commandBytes]

theorem exec_pageProgram_waits (hop : s.link.op = some o) (hphase : s.link.phase = .command)
    (henabled : s.link.writeEnabled = true) {n : Nat} (hprogram : o.op = .program n) :
    exec .pageProgramTransaction s =
      .next { s with link := s.link.startBusyWait Config.programLimit <|
        cmdProgram :: addressBytes (pageAddress o.bank n) ++ s.snap.pageData n } := by
  obtain ⟨op, bank, client⟩ := o
  subst hprogram
  simp [exec, execPageProgramTransaction, hop, hphase, henabled, LinkOp.commandBytes]

theorem exec_pageRead_done (hop : s.link.op = some o) (hphase : s.link.phase = .command) {n : Nat}
    (hread : o.op = .read n) {data : List Byte} (hlen : data.length = 256) :
    exec (.pageRead data) s =
      .next ((s.sent (cmdRead :: addressBytes (pageAddress o.bank n))).readDone o n data) := by
  obtain ⟨op, bank, client⟩ := o
  subst hread
  simp [exec, execPageRead, hop, hphase, hlen, LinkOp.commandBytes]

/-! ### The bytes recorded are those of the transaction (R159, R188) -/

theorem exec_statusRead_mdo (hop : s.link.op = some o) (hphase : s.link.phase = .readyWait ∨ s.link.phase = .busyWait)
    (status : Byte) : ∃ t, exec (.statusRead status) s = .next t ∧ t.link.mdo = [cmdStatus] := by
  cases hbit : busyBit status with
  | true => exact ⟨_, exec_statusRead_busy hop hphase hbit, rfl⟩
  | false =>
    rcases hphase with hphase | hphase
    · exact ⟨_, exec_statusRead_ready hop hphase hbit, rfl⟩
    · exact ⟨_, exec_statusRead_done hop hphase hbit, State.writeDone_mdo _ o⟩

end

/-- R159, R188, R189: the completion of the link's transaction records the bytes that the transaction sends. -/
theorem exec_transaction_records {s : State} {x : FlashTransaction} {bits : List Bool} {c : Instr}
    (htransaction : s.transaction = some x) (hcommand : x.command bits = some c) (hbits : bits.length = 8 * x.taken) :
    ∃ t, exec c s = .next t ∧ t.link.mdo = x.sent := by
  obtain ⟨o, hop, ⟨hphase, rfl⟩ | ⟨hphase, hcases⟩⟩ := State.transaction_cases htransaction
  · obtain ⟨status, rfl⟩ := statusReadOfBits_eq_some hcommand
    exact exec_statusRead_mdo hop hphase status
  · rcases hcases with ⟨hwrites, henabled, rfl⟩ | ⟨k, hkind, henabled, rfl⟩ | ⟨n, hkind, henabled, rfl⟩ | ⟨n, hkind, rfl⟩ <;>
      obtain rfl := Option.some.inj hcommand
    · exact ⟨_, exec_writeEnable_enables hop hphase hwrites henabled, rfl⟩
    · exact ⟨_, exec_sectorErase_waits hop hphase henabled hkind, rfl⟩
    · exact ⟨_, exec_pageProgram_waits hop hphase henabled hkind, rfl⟩
    · exact ⟨_, exec_pageRead_done hop hphase hkind (bytesOfBits_length hbits), State.readDone_mdo _ o n _⟩

theorem exec_transaction_mdo {s t : State} {x : FlashTransaction} {bits : List Bool} {c : Instr}
    (htransaction : s.transaction = some x) (hcommand : x.command bits = some c) (hbits : bits.length = 8 * x.taken)
    (hexec : exec c s = .next t) : t.link.mdo = x.sent := by
  obtain ⟨u, hu, hmdo⟩ := exec_transaction_records htransaction hcommand hbits
  obtain rfl := Host.Outcome.next.inj (hexec.symm.trans hu)
  exact hmdo

/-- Settles O47: the outputs are the levels of the transaction (`FlashTransaction.levels_clock`, `FlashTransaction.levels_mdo`,
`FlashTransaction.levels_behind`) or rest, the transaction is that of its phase and operation, its completion records its
bytes (`exec_transaction_mdo`), and each completed transaction is the equation of `exec` for it. -/
theorem flashTransactionsFollowTheOperation : Obligations.FlashTransactionsFollowTheOperation := by
  refine ⟨fun s => ⟨s.flashSignals_none, fun moment h => State.flashSignals_rest h moment, fun x n htransaction => ?_,
      fun t moment hexec => exec_deviceReset_flashSignals hexec moment⟩,
    fun x free mdi hlen => x.takenBits_eq free mdi hlen,
    fun bits => ⟨rfl, rfl, fun _ => rfl, fun _ _ => rfl, fun _ => rfl⟩,
    ⟨rfl, rfl, fun _ => ⟨rfl, rfl⟩, fun _ _ => rfl⟩,
    fun s o hreset hop => ⟨State.transaction_wait hreset hop, State.transaction_writeEnable hreset hop,
      fun k hphase henabled hkind => ⟨_, State.transaction_erase hreset hop hphase henabled hkind⟩,
      fun n hphase henabled hkind => ⟨_, _, State.transaction_program hreset hop hphase henabled hkind⟩,
      fun n hphase hkind => ⟨_, State.transaction_read hreset hop hphase hkind⟩⟩,
    fun s t x bits c => exec_transaction_mdo, ⟨rfl, sentLevels_cons⟩, statusReadOfBits_bitsOfByte,
    fun data => congrArg Instr.pageRead (bytesOfBits_flatMap data), fun s o base hop hbase => ?_⟩
  · rw [State.flashSignals_transaction htransaction]
    exact ⟨x.levels_clock s.freeIndex,
      fun i b j hb hj hn => x.levels_mdo s.freeIndex hb hj (by omega), x.levels_behind s.freeIndex⟩
  · obtain rfl : base = o.bank.base := hbase.trans (by cases o.bank <;> rfl)
    refine ⟨fun status hphase hready => exec_statusRead_ready hop hphase hready,
      fun status hphase hbusy => exec_statusRead_busy hop hphase hbusy, exec_writeEnable_enables hop,
      fun k address hphase hkind henabled _ haddress => ?_,
      fun n address image hphase hkind henabled _ haddress hbuffer => ?_,
      fun n address data t hphase hkind _ haddress hlen hexec => ?_⟩
    · rw [exec_sectorErase_waits hop hphase henabled hkind, addressBytes_eq, sectorAddress, ← haddress]
      rfl
    · rw [exec_pageProgram_waits hop hphase henabled hkind, addressBytes_eq, pageAddress, ← haddress,
        Snapshot.pageData_buffer hbuffer]
      rfl
    · obtain rfl := Host.Outcome.next.inj (hexec.symm.trans (exec_pageRead_done hop hphase hkind hlen))
      rw [State.readDone_mdo, State.sent_link, addressBytes_eq, pageAddress, ← haddress]
      rfl

end Sys2Proof.Machine
end

section
/-!
SUPPORT. Device reset and start-up (chapter 10): the values of the blocks and the first header read (R169), the headers and
the try order (R171, R172), and the proof of the bank under test with the end of start-up (R173 to R176).
-/
namespace Sys2Proof.Machine

/-! ### Device reset (R169) -/

theorem State.reset_ports_get (p : Port) : State.reset.ports.get p = .reset := by cases p <;> rfl

theorem PortState.reset_slots_get (k : SlotNo) : PortState.reset.slots.get k = .free := by cases k <;> rfl

/-- R101, R119: ATN_N of a port is deasserted by the device reset. -/
theorem PortState.reset_atn : PortState.reset.atn = false := rfl

theorem exec_deviceReset (s : State) :
    exec .deviceReset s = .next { State.reset with
      pins := { s.pins with resetN := true }, freeIndex := s.freeIndex, pending := s.pending } := rfl

theorem exec_resetDeassert_asserted {s : State} (h : s.pins.resetN = true) :
    exec .resetDeassert s = .next (State.handOp
      { s with pins := { s.pins with resetN := false }, accrual := { s.accrual with secondTimer := 0 } }
      (.read 0) .a .startup) :=
  congrArg Host.Outcome.next (if_pos h)

/-- Settles O4: the state after a device reset is `exec_deviceReset`, with each port as `State.reset_ports_get` says; the
first header read is handed over by `exec_resetDeassert_asserted`. -/
theorem deviceResetThenFirstHeaderRead : Obligations.DeviceResetThenFirstHeaderRead := by
  refine fun s => ⟨⟨_, exec_deviceReset s, rfl, rfl, rfl, rfl, rfl, rfl, fun p => ?_, rfl, ⟨rfl, rfl, rfl, rfl, rfl, rfl⟩,
      ⟨rfl, rfl, rfl, rfl, rfl, rfl, rfl, rfl, rfl, rfl, rfl, rfl⟩, ⟨rfl, rfl, rfl⟩,
      ⟨rfl, rfl, rfl, rfl, rfl, rfl, rfl, rfl, rfl, rfl, rfl⟩, rfl, rfl⟩,
    fun hreset => ⟨_, exec_resetDeassert_asserted hreset, rfl, rfl, rfl, rfl⟩⟩
  rw [State.atnAsserted, State.reset_ports_get]
  exact ⟨PortState.reset_atn, rfl, PortState.reset_slots_get, rfl, rfl, rfl, rfl, rfl, rfl⟩

/-! ### What the link reports to the start-up logic (R161, R165, R167) -/

/-- R165: a page read of the start-up logic completes. -/
theorem exec_pageRead_startup {s : State} {n : Nat} {bank : Bank} {data : List Byte}
    (hop : s.link.op = some ⟨.read n, bank, .startup⟩) (hphase : s.link.phase = .command) (hlen : data.length = 256) :
    ∃ l : Link, l.AtRest ∧ exec (.pageRead data) s = .next ((s.withLink l).startupPage n data) :=
  ⟨((s.sent (cmdRead :: addressBytes (pageAddress bank n))).linkIdle).link, ⟨rfl, rfl, rfl⟩,
    exec_pageRead_done hop hphase rfl hlen⟩

/-- R162, R167: the ready wait of an operation of the start-up logic times out. -/
theorem exec_readyWaitTimeout_startup {s : State} {op : FlashOp} {bank : Bank}
    (hop : s.link.op = some ⟨op, bank, .startup⟩) (hphase : s.link.phase = .readyWait) :
    ∃ l : Link, l.AtRest ∧ exec .readyWaitTimeout s = .next (s.withLink l).startupFailure := by
  refine ⟨s.linkIdle.link, ⟨rfl, rfl, rfl⟩, ?_⟩
  simp only [exec, execReadyWaitTimeout, hop, hphase, State.opFailed]
  rfl

/-! ### The headers and the try order (R171, R172) -/

/-- R167, R171: the header read in hand ends with `c`, by its data or by its timeout, in the verdict `v` and the
copy `copy`. -/
def HeaderReadEnds (s : State) (c : Instr) (v : HeaderVerdict) (copy : Option (List Byte)) : Prop :=
  (∃ data, c = .pageRead data ∧ s.link.phase = .command ∧ data.length = 256 ∧ copy = some data ∧ v = judgeHeader data) ∨
    c = .readyWaitTimeout ∧ s.link.phase = .readyWait ∧ copy = none ∧ v = .implausible

/-- R171: both ends of a header read lead on with the verdict and the copy, by the header that is read. -/
theorem exec_headerRead {s : State} {c : Instr} {bank : Bank} {v : HeaderVerdict} {copy : Option (List Byte)}
    (hop : s.link.op = some ⟨.read 0, bank, .startup⟩) (hends : HeaderReadEnds s c v copy) :
    ∃ l : Link, l.AtRest ∧
      (s.startup.step = .headerA → exec c s = .next ((s.withLink l).headerADone v copy)) ∧
      (s.startup.step = .headerB → exec c s = .next ((s.withLink l).headerBDone v copy)) := by
  rcases hends with ⟨data, rfl, hphase, hlen, rfl, rfl⟩ | ⟨rfl, hphase, rfl, rfl⟩
  · obtain ⟨l, hl, hexec⟩ := exec_pageRead_startup hop hphase hlen
    refine ⟨l, hl, fun hstep => ?_, fun hstep => ?_⟩ <;>
      rw [hexec, State.startupPage, State.withLink, hstep]
  · obtain ⟨l, hl, hexec⟩ := exec_readyWaitTimeout_startup hop hphase
    refine ⟨l, hl, fun hstep => ?_, fun hstep => ?_⟩ <;>
      rw [hexec, State.startupFailure, State.withLink, hstep]

theorem newerGeneration_iff (a b : Nat) :
    newerGeneration a b = true ↔
      1 ≤ (a + 4294967296 - b) % 4294967296 ∧ (a + 4294967296 - b) % 4294967296 ≤ 2147483647 :=
  Bool.and_eq_true_iff.trans (and_congr decide_eq_true_iff decide_eq_true_iff)

/-- R172: bank B comes first exactly where its generation is ahead by less than half the range. -/
theorem tryOrderOf_plausible (a b : Nat) :
    tryOrderOf (.plausible a) (.plausible b) =
      if 1 ≤ (b + 4294967296 - a) % 4294967296 ∧ (b + 4294967296 - a) % 4294967296 ≤ 2147483647 then [.b, .a]
      else [.a, .b] :=
  ite_congr (propext (newerGeneration_iff b a)) (fun _ => rfl) fun _ => rfl

/-- R172, R173: after the second header start-up goes on with the try order of the two verdicts. -/
theorem startUpTries_headerBDone {s : State} {l : Link} (hl : l.AtRest) {va : HeaderVerdict}
    (hva : s.startup.verdictA = some va) (v : HeaderVerdict) (copy : Option (List Byte))
    {copies : Bank → Option (List Byte)} (hcopyA : copies .a = s.startup.copyA) (hcopyB : copies .b = copy) :
    StartUpTries s ((s.withLink l).headerBDone v copy) (tryOrderOf va v) s.startup.failedNewer copies := by
  have horder : tryOrderOf va v = tryOrderOf (s.startup.verdictA.getD .implausible) v := by rw [hva, Option.getD_some]
  rw [horder]
  refine startUpTries_of (s := s) (u := { s.withLink l with startup := { s.startup with
    verdictB := some v, copyB := copy, step := .body, tryOrder := tryOrderOf (s.startup.verdictA.getD .implausible) v } })
    rfl hl rfl (funext fun bank => ?_)
  cases bank with
  | a => exact hcopyA.symm
  | b => exact hcopyB.symm

/-- Settles O51: both ends of a header read are `exec_headerRead`; the order of each pair of verdicts is `tryOrderOf`, and
start-up goes on with it by `startUpTries_headerBDone`. -/
theorem headersFormTheTryOrder : Obligations.HeadersFormTheTryOrder := by
  intro s c bank v copy hop hends
  obtain ⟨l, hl, hfirst, hsecond⟩ := exec_headerRead hop hends
  refine ⟨fun hstep => ⟨_, hfirst hstep, rfl, rfl, rfl, rfl, rfl⟩, fun va order hstep hva hnewer hcases => ?_⟩
  have horder : order = tryOrderOf va v := by
    rcases hcases with ⟨rfl, rfl, rfl⟩ | ⟨⟨a, rfl⟩, rfl, rfl⟩ | ⟨rfl, ⟨b, rfl⟩, rfl⟩ | ⟨a, b, rfl, rfl, -, -, rfl⟩
    · rfl
    · rfl
    · rfl
    · exact (tryOrderOf_plausible a b).symm
  rw [horder, ← hnewer]
  exact ⟨_, hsecond hstep, startUpTries_headerBDone hl hva v copy rfl rfl⟩

/-! ### The proof of the bank under test (R173, R174) -/

/-- R173: the load buffer and the running sum with one more body page. -/
def Startup.withPage (u : Startup) (image : Image) (data : List Byte) : Startup :=
  { u with
    buffer := some ⟨image.header, image.body ++ data⟩
    runningSum := (u.runningSum + wordSum data) % Config.two32 }

/-- R174: the bank under test fails; start-up goes on with the rest of the try order. -/
theorem startUpTries_bankFailed {s u : State} (hu : u = { s with startup := u.startup, link := u.link })
    (hl : u.link.AtRest) (hstep : u.startup.step = .body) :
    StartUpTries s u.bankFailed u.startup.tryOrder.tail
      (u.startup.failedNewer || decide (u.startup.tryOrder.length = 2)) u.startup.copyOf :=
  startUpTries_of
    (u := { u with startup := { u.startup with
      failedNewer := u.startup.failedNewer || decide (u.startup.tryOrder.length = 2)
      tryOrder := u.startup.tryOrder.tail, underTest := none, buffer := none, runningSum := 0 } })
    (by rw [hu]) hl hstep rfl

section
variable {s : State} {bank : Bank} {image : Image}

/-- R173, R174, R176: check word and content check pass. -/
theorem State.judgeBank_passes {table : List Entry} {pool : List EpochRecord} {sum : Nat}
    (hbank : s.startup.underTest = some bank) (hload : loadImage image = some (table, pool))
    (hsum : (sum + fieldAt image.header 12 4) % 4294967296 = 0) :
    s.judgeBank image sum =
      s.endStartup table pool (some bank) (fieldAt image.header 6 4) (fieldAt image.header 16 2) := by
  rw [State.judgeBank, hload, hbank]
  exact if_pos hsum

/-- R173, R174: the check word or the content check fails. -/
theorem State.judgeBank_fails {sum : Nat}
    (h : (sum + fieldAt image.header 12 4) % 4294967296 ≠ 0 ∨ loadImage image = none) :
    s.judgeBank image sum = s.bankFailed := by
  unfold State.judgeBank
  rcases h with hsum | hload
  · exact if_neg hsum
  · rw [hload]
    exact ite_self _

/-- R173: a page before the last is buffered and summed, and the next one is read. -/
theorem State.startupPage_next {n : Nat} {data : List Byte} (hstep : s.startup.step = .body)
    (hbank : s.startup.underTest = some bank) (hbuffer : s.startup.buffer = some image) (hn : n < 32) :
    s.startupPage n data =
      State.handOp { s with startup := s.startup.withPage image data } (.read (n + 1)) bank .startup := by
  simp only [State.startupPage, hstep, State.bodyPageRead, hbuffer, hbank, if_pos hn, Option.getD_some, Startup.withPage]

/-- R173: with the last page the bank under test is judged. -/
theorem State.startupPage_last {data : List Byte} (hstep : s.startup.step = .body)
    (hbuffer : s.startup.buffer = some image) :
    s.startupPage 32 data =
      State.judgeBank { s with startup := s.startup.withPage image data } ⟨image.header, image.body ++ data⟩
        ((s.startup.runningSum + wordSum data) % Config.two32) := by
  simp only [State.startupPage, hstep, State.bodyPageRead, hbuffer, Nat.lt_irrefl, if_false, Option.getD_some,
    Startup.withPage]

/-- R173, R174, R176: with the last page the bank under test passes, and start-up ends with what it holds. -/
theorem State.startupPage_proved {data : List Byte} {table : List Entry} {pool : List EpochRecord}
    (hstep : s.startup.step = .body) (hbank : s.startup.underTest = some bank) (hbuffer : s.startup.buffer = some image)
    (hload : loadImage ⟨image.header, image.body ++ data⟩ = some (table, pool))
    (hsum : (s.startup.runningSum + wordSum data + fieldAt image.header 12 4) % 4294967296 = 0) :
    s.startupPage 32 data =
      State.endStartup { s with startup := s.startup.withPage image data } table pool (some bank)
        (fieldAt image.header 6 4) (fieldAt image.header 16 2) :=
  (State.startupPage_last hstep hbuffer).trans
    (State.judgeBank_passes hbank hload ((Nat.mod_add_mod ..).trans hsum))

/-- R173, R174: with the last page the bank under test fails. -/
theorem State.startupPage_fails {data : List Byte} (hstep : s.startup.step = .body)
    (hbuffer : s.startup.buffer = some image)
    (h : (s.startup.runningSum + wordSum data + fieldAt image.header 12 4) % 4294967296 ≠ 0 ∨
      loadImage ⟨image.header, image.body ++ data⟩ = none) :
    s.startupPage 32 data = State.bankFailed { s with startup := s.startup.withPage image data } := by
  rw [← Nat.mod_add_mod] at h
  exact (State.startupPage_last hstep hbuffer).trans (State.judgeBank_fails h)

theorem State.startupFailure_body (hstep : s.startup.step = .body) : s.startupFailure = s.bankFailed := by
  rw [State.startupFailure, hstep]

end

/-- Settles O52: a body page is `State.startupPage_next`, the last one `State.startupPage_proved` or
`State.startupPage_fails`; a bank that fails leaves the try order by `startUpTries_bankFailed`. -/
theorem startUpLoadsTheProvedBank : Obligations.StartUpLoadsTheProvedBank := by
  refine fun s bank n image hop hstep hbank hbuffer => ⟨fun data hphase hlen hn => ?_,
    fun data passes hphase hlen hn hpasses => ?_, fun hphase => ?_⟩
  · obtain ⟨l, -, hexec⟩ := exec_pageRead_startup hop hphase hlen
    rw [State.startupPage_next (s := s.withLink l) hstep hbank hbuffer hn] at hexec
    exact ⟨_, hexec, rfl, rfl, rfl, rfl, rfl⟩
  · subst hn
    obtain ⟨l, hl, hexec⟩ := exec_pageRead_startup hop hphase hlen
    refine ⟨fun table pool hpass hload => ?_, fun hfail => ?_⟩
    · have hsum := of_decide_eq_true (hpasses.symm.trans hpass)
      rw [State.startupPage_proved (s := s.withLink l) hstep hbank hbuffer hload hsum] at hexec
      exact ⟨_, hexec, startUpEnds_of (s := s) (u := { s.withLink l with startup := s.startup.withPage image data })
        rfl hl table pool (some bank) _ _⟩
    · have hjudged := hfail.imp_left fun hpass => of_decide_eq_false (hpasses.symm.trans hpass)
      rw [State.startupPage_fails (s := s.withLink l) hstep hbuffer hjudged] at hexec
      exact ⟨_, hexec, startUpTries_bankFailed rfl hl hstep⟩
  · obtain ⟨l, hl, hexec⟩ := exec_readyWaitTimeout_startup hop hphase
    rw [State.startupFailure_body (s := s.withLink l) hstep] at hexec
    exact ⟨_, hexec, startUpTries_bankFailed rfl hl hstep⟩

end Sys2Proof.Machine
end

section
/-!
SUPPORT. The queue of commands and the index of the free values: no command changes either (log entries 3, 7 and 17), so that
what waits behind a command is what the next steps take.
-/
namespace Sys2Proof.Machine

/-! ### Changes that leave the queue -/

/-- Between `s` and `t` the queue of commands and the index of the free values stood. -/
structure QueueKept (s t : State) : Prop where
  pending : t.pending = s.pending
  freeIndex : t.freeIndex = s.freeIndex

theorem QueueKept.refl (s : State) : QueueKept s s := ⟨rfl, rfl⟩

theorem QueueKept.trans {s t u : State} (h : QueueKept s t) (h' : QueueKept t u) : QueueKept s u :=
  ⟨h'.pending.trans h.pending, h'.freeIndex.trans h.freeIndex⟩

theorem QueueKept.after {s t u : State} (h' : QueueKept t u) (h : QueueKept s t) : QueueKept s u := h.trans h'

/-- R11: the change count and the lines follow a change of entries. -/
theorem QueueKept.counted {s t : State} (h : QueueKept s t) (n : Nat) : QueueKept s (t.addChanges n).refreshLines :=
  h.trans ⟨rfl, rfl⟩

theorem queueKept_publish (s : State) (before after : Entry) : QueueKept s (s.publish before after) :=
  ⟨State.publish_pending .., State.publish_freeIndex ..⟩

theorem queueKept_replaceEntry (s : State) (before after : Entry) : QueueKept s (s.replaceEntry before after) :=
  ⟨State.replaceEntry_pending .., State.replaceEntry_freeIndex ..⟩

theorem queueKept_endLease (s : State) (reason : LeaseEndReason) : QueueKept s (s.endLease reason) :=
  ⟨State.endLease_pending .., State.endLease_freeIndex ..⟩

theorem queueKept_resetPort (s : State) (p : Port) (spared : Option SlotNo) : QueueKept s (s.resetPort p spared) :=
  ⟨State.resetPort_pending .., State.resetPort_freeIndex ..⟩

theorem queueKept_answerSaves (s : State) (result : ResultCode) (body : List Byte) :
    QueueKept s (s.answerSaves result body) := ⟨State.answerSaves_pending .., State.answerSaves_freeIndex ..⟩

theorem queueKept_endService (s : State) (p : Port) (k : SlotNo) (r : Request) (reply : Reply) :
    QueueKept s (s.endService p k r reply) := ⟨State.endService_pending .., State.endService_freeIndex ..⟩

/-- R69, R73: the items of a batch reach the table, the pool and the notices alone. -/
theorem ItemsFrame.queueKept {s t : State} (h : ItemsFrame s t) : QueueKept s t := by
  obtain ⟨hrest, -⟩ := h
  exact ⟨by rw [hrest], by rw [hrest]⟩

/-! ### Grants -/

/-- R10, R11: a grant leaves the queue when the request's service does. -/
theorem queueKept_grantRequest {s : State} {p : Port} {c : Option RequestCode}
    {service : State → SlotNo → Request → State × Reply} (h : ∀ t k r, QueueKept t (service t k r).1) :
    QueueKept s (s.grantRequest p c service) := by
  unfold State.grantRequest
  split
  · next k r _ =>
    split
    · have hbegin : QueueKept s (s.beginService p k r) := ⟨rfl, rfl⟩
      exact hbegin.trans ((h _ k r).trans (queueKept_endService _ _ k r _))
    · exact .refl s
  all_goals exact .refl s

/-- R13: a refusal by a check at grant changes nothing. -/
theorem queueKept_checked {s : State} {p : Port} {c : RequestCode} {body : Option α} {service : α → State × Reply}
    (h : ∀ x, QueueKept s (service x).1) : QueueKept s (s.checked p c body service).1 := by
  unfold State.checked
  split
  · exact .refl s
  · next x _ => exact h x
  · exact .refl s

theorem queueKept_serve {s : State} {p : Port} {c : RequestCode} {decode : List Byte → Option α}
    {service : State → SlotNo → α → State × Reply} (h : ∀ t k x, QueueKept t (service t k x).1) :
    QueueKept s (s.serve p c decode service) :=
  queueKept_grantRequest fun t k _ => queueKept_checked (h t k)

/-! ### Requests on the table (chapters 1 and 3) -/

theorem queueKept_serviceDefine (id : Nat) (f : Fields) (s : State) : QueueKept s (s.serviceDefine id f).1 := by
  unfold State.serviceDefine
  split
  · exact .refl s
  · next d _ =>
    split
    · exact .refl s
    · split
      · exact .refl s
      · split
        · exact .refl s
        · refine ((queueKept_publish _ _ _).after ?_).counted 1
          exact ⟨rfl, rfl⟩

theorem queueKept_serviceAmend (id : Nat) (f : Fields) (s : State) : QueueKept s (s.serviceAmend id f).1 := by
  unfold State.serviceAmend
  split
  · exact .refl s
  · next e _ =>
    split
    · exact .refl s
    · split
      · exact .refl s
      · split
        · exact (queueKept_replaceEntry s e (e.amend f)).counted 1
        · exact .refl s

theorem queueKept_serviceRetire (id : Nat) (s : State) : QueueKept s (s.serviceRetire id).1 := by
  unfold State.serviceRetire
  split
  · exact .refl s
  · exact ⟨rfl, rfl⟩

theorem queueKept_serviceRenew (id : Nat) (s : State) : QueueKept s (s.serviceRenew id).1 := by
  unfold State.serviceRenew
  split
  · exact .refl s
  · next e _ =>
    refine ((queueKept_replaceEntry _ e e.renew).after ?_).counted 1
    exact ⟨rfl, rfl⟩

theorem queueKept_serviceDescribe (id : Nat) (s : State) : QueueKept s (s.serviceDescribe id).1 := by
  unfold State.serviceDescribe
  split <;> exact .refl s

theorem queueKept_serviceClear (id : Nat) (s : State) : QueueKept s (s.serviceClear id).1 := by
  unfold State.serviceClear
  split
  · exact .refl s
  · next e _ =>
    split
    · exact (queueKept_replaceEntry s e e.clear).counted 1
    all_goals exact .refl s

theorem queueKept_serviceOverride (id value : Nat) (s : State) : QueueKept s (s.serviceOverride id value).1 := by
  unfold State.serviceOverride
  split
  · exact .refl s
  · exact .refl s
  · next e o _ _ => exact (queueKept_replaceEntry s e (e.setOverride o)).trans ⟨rfl, rfl⟩

/-! ### REPORT and the accrual job (chapter 4) -/

theorem queueKept_serviceReport (p : Port) (items : List Item) (s : State) :
    QueueKept s (s.serviceReport p items).1 := by
  unfold State.serviceReport
  split
  · exact .refl s
  · exact (s.applyItems_frame items).queueKept.counted _

/-- R78, R79: the visits and the counts reach the table, the notices, the accrual block, the lines and the change count. -/
theorem queueKept_accrueAll (s : State) : QueueKept s s.accrueAll := by
  rw [State.accrueAll_eq]
  exact ⟨rfl, rfl⟩

/-! ### Requests on notices, lease and snapshots (chapters 5, 6 and 8) -/

theorem queueKept_serviceWatch (p : Port) (id : Nat) (s : State) : QueueKept s (s.serviceWatch p id).1 := by
  unfold State.serviceWatch
  dsimp only
  split
  · exact .refl s
  · split
    · exact .refl s
    · split
      · exact .refl s
      · exact ⟨rfl, rfl⟩

theorem queueKept_serviceAck (p : Port) (seq : Nat) (s : State) : QueueKept s (s.serviceAck p seq).1 := by
  unfold State.serviceAck
  dsimp only
  split
  · exact .refl s
  · exact ⟨rfl, rfl⟩

theorem queueKept_serviceClaim (p : Port) (duration : Nat) (s : State) : QueueKept s (s.serviceClaim p duration).1 := by
  unfold State.serviceClaim
  split
  · exact .refl s
  · split
    · exact ⟨rfl, rfl⟩
    · exact .refl s

theorem queueKept_serviceRelease (p : Port) (s : State) : QueueKept s (s.serviceRelease p).1 := by
  unfold State.serviceRelease
  split
  · exact queueKept_endLease s .released
  · exact .refl s

theorem queueKept_serviceSave (s : State) : QueueKept s s.serviceSave.1 := by
  unfold State.serviceSave
  split
  · split <;> exact ⟨rfl, rfl⟩
  · exact .refl s
  all_goals split <;> exact ⟨rfl, rfl⟩

theorem queueKept_serviceSettings (interval : Nat) (s : State) : QueueKept s (s.serviceSettings interval).1 := by
  unfold State.serviceSettings
  split <;> exact ⟨rfl, rfl⟩

/-! ### What the memory link reports to the snapshot unit (chapter 8) -/

theorem queueKept_snapshotSuccess (s : State) (image : Image) : QueueKept s (s.snapshotSuccess image) := by
  have hanswers := queueKept_answerSaves
    { s with snap := { s.snap with newestBank := some s.snap.target, newestGen := headerGeneration image.header } } .ok
    (leBytes 4 (headerGeneration image.header) ++ leBytes 4 s.snap.captured)
  exact ⟨hanswers.pending, hanswers.freeIndex⟩

theorem queueKept_attemptFailure (s : State) : QueueKept s s.attemptFailure := by
  unfold State.attemptFailure
  split
  · exact ⟨rfl, rfl⟩
  · have hanswers := queueKept_answerSaves (s.addChanges s.snap.captured) .snapshotFailed
      (leBytes 4 (s.addChanges s.snap.captured).snap.newestGen)
    exact ⟨hanswers.pending, hanswers.freeIndex⟩

theorem queueKept_writeCompleted (s : State) (op : FlashOp) : QueueKept s (s.writeCompleted op) := by
  cases op with
  | erase k =>
    unfold State.writeCompleted
    dsimp only
    split <;> exact ⟨rfl, rfl⟩
  | program n =>
    unfold State.writeCompleted
    dsimp only
    split
    · exact ⟨rfl, rfl⟩
    · split <;> exact ⟨rfl, rfl⟩
  | read n => exact .refl s

theorem queueKept_verifyPage (s : State) (n : Nat) (data : List Byte) : QueueKept s (s.verifyPage n data) := by
  have hfailure := queueKept_attemptFailure s
  unfold State.verifyPage
  split
  · exact hfailure
  · next image _ =>
    split
    · exact hfailure
    · split
      · split
        · exact queueKept_snapshotSuccess s image
        · exact hfailure
      · split <;> exact ⟨rfl, rfl⟩

/-! ### What it reports to the start-up logic (chapter 10) -/

theorem queueKept_tryNext (s : State) : QueueKept s s.tryNext := by
  unfold State.tryNext
  split <;> exact ⟨rfl, rfl⟩

theorem queueKept_bankFailed (s : State) : QueueKept s s.bankFailed :=
  (queueKept_tryNext _).after ⟨rfl, rfl⟩

theorem queueKept_headerBDone (s : State) (v : HeaderVerdict) (copy : Option (List Byte)) :
    QueueKept s (s.headerBDone v copy) := (queueKept_tryNext _).after ⟨rfl, rfl⟩

theorem queueKept_judgeBank (s : State) (image : Image) (sum : Nat) : QueueKept s (s.judgeBank image sum) := by
  unfold State.judgeBank
  split
  · split
    · exact ⟨rfl, rfl⟩
    · exact queueKept_bankFailed s
  · exact queueKept_bankFailed s

theorem queueKept_bodyPageRead (s : State) (n : Nat) (data : List Byte) : QueueKept s (s.bodyPageRead n data) := by
  unfold State.bodyPageRead
  dsimp only
  split
  · exact ⟨rfl, rfl⟩
  · exact (queueKept_judgeBank _ _ _).after ⟨rfl, rfl⟩

theorem queueKept_startupPage (s : State) (n : Nat) (data : List Byte) : QueueKept s (s.startupPage n data) := by
  unfold State.startupPage
  split
  · exact ⟨rfl, rfl⟩
  · exact queueKept_headerBDone s _ _
  · exact queueKept_bodyPageRead s n data
  · exact .refl s

theorem queueKept_startupFailure (s : State) : QueueKept s s.startupFailure := by
  unfold State.startupFailure
  split
  · exact ⟨rfl, rfl⟩
  · exact queueKept_headerBDone s _ _
  · exact queueKept_bankFailed s
  · exact .refl s

/-! ### The ends of an operation of the memory link (R161, R165, R167) -/

theorem queueKept_linkIdle (s : State) : QueueKept s s.linkIdle := ⟨rfl, rfl⟩

theorem queueKept_readDone (s : State) (o : LinkOp) (n : Nat) (data : List Byte) : QueueKept s (s.readDone o n data) := by
  unfold State.readDone
  split
  · exact (queueKept_linkIdle s).trans (queueKept_verifyPage _ n data)
  · exact (queueKept_linkIdle s).trans (queueKept_startupPage _ n data)

theorem queueKept_opFailed (s : State) (o : LinkOp) : QueueKept s (s.opFailed o) := by
  unfold State.opFailed
  split
  · exact (queueKept_linkIdle s).trans (queueKept_attemptFailure _)
  · exact (queueKept_linkIdle s).trans (queueKept_startupFailure _)

/-! ### Jobs, timers and pins -/

/-- The command answers a next state, and the queue stands. -/
def AnswersNext (c : Instr) (s : State) : Prop := ∃ t, exec c s = .next t ∧ QueueKept s t

theorem answersNext_captureJob (s : State) : AnswersNext .captureJob s := by
  refine ⟨_, rfl, ?_⟩
  split <;> exact ⟨rfl, rfl⟩

theorem answersNext_accrualJob (s : State) : AnswersNext .accrualJob s := by
  refine ⟨_, rfl, ?_⟩
  split
  · dsimp only
    split
    · exact (queueKept_accrueAll _).after ⟨rfl, rfl⟩
    all_goals exact ⟨rfl, rfl⟩
  all_goals exact .refl s

theorem answersNext_secondTick (run : Bool) (s : State) : AnswersNext (.secondTick run) s := by
  refine ⟨_, rfl, ?_⟩
  split
  · exact .refl s
  · split <;> exact ⟨rfl, rfl⟩

theorem answersNext_leaseUnitComplete (s : State) : AnswersNext .leaseUnitComplete s := by
  refine ⟨_, rfl, ?_⟩
  split
  · exact .refl s
  · split
    · exact queueKept_endLease s .expired
    · exact ⟨rfl, rfl⟩

theorem answersNext_leaseExpiry (s : State) : AnswersNext .leaseExpiry s := by
  refine ⟨_, rfl, ?_⟩
  split
  · exact queueKept_endLease s .expired
  · exact .refl s

theorem answersNext_autosaveExpiry (s : State) : AnswersNext .autosaveExpiry s := by
  refine ⟨_, rfl, ?_⟩
  split <;> exact ⟨rfl, rfl⟩

theorem answersNext_pfwAssert (s : State) : AnswersNext .pfwAssert s := by
  refine ⟨_, rfl, ?_⟩
  split <;> exact ⟨rfl, rfl⟩

theorem answersNext_pfwDeassert (s : State) : AnswersNext .pfwDeassert s := by
  refine ⟨_, rfl, ?_⟩
  split <;> exact ⟨rfl, rfl⟩

theorem answersNext_resetDeassert (s : State) : AnswersNext .resetDeassert s := by
  refine ⟨_, rfl, ?_⟩
  split <;> exact ⟨rfl, rfl⟩

/-! ### Ports (chapter 7) -/

theorem queueKept_arrive (s : State) (p : Port) (r : Request) : QueueKept s (s.arrive p r) := by
  unfold State.arrive
  split
  · exact ⟨rfl, rfl⟩
  · split
    · exact ⟨rfl, rfl⟩
    · exact ⟨State.refreshLease_pending .., State.refreshLease_freeIndex ..⟩

theorem answersNext_portReset (p : Port) (s : State) : AnswersNext (.portReset p) s := by
  have hheld : QueueKept s (s.assertPrst p) := ⟨rfl, rfl⟩
  exact ⟨_, exec_portReset s p, hheld.trans (queueKept_resetPort _ p none)⟩

theorem answersNext_frameArrival (p : Port) (bytes : List Byte) (s : State) : AnswersNext (.frameArrival p bytes) s := by
  refine ⟨_, rfl, ?_⟩
  split
  · split
    · exact queueKept_arrive s p _
    · exact ⟨rfl, rfl⟩
  · exact .refl s

theorem answersNext_readSelect (p : Port) (s : State) : AnswersNext (.readSelect p) s := by
  refine ⟨_, rfl, ?_⟩
  split <;> exact ⟨rfl, rfl⟩

theorem answersNext_invalidSelectEnd (p : Port) (s : State) : AnswersNext (.invalidSelectEnd p) s := by
  refine ⟨_, rfl, ?_⟩
  split <;> exact ⟨rfl, rfl⟩

/-! ### The memory link (chapter 9) -/

theorem answersNext_statusRead (status : Byte) (s : State) : AnswersNext (.statusRead status) s := by
  refine ⟨_, rfl, ?_⟩
  split
  · dsimp only
    split <;> exact ⟨rfl, rfl⟩
  · next o _ _ =>
    dsimp only
    split
    · exact ⟨rfl, rfl⟩
    · exact (queueKept_writeCompleted _ o.op).after ⟨rfl, rfl⟩
  all_goals exact .refl s

theorem answersNext_writeEnable (s : State) : AnswersNext .writeEnable s := by
  refine ⟨_, rfl, ?_⟩
  split
  case h_1 | h_2 => split <;> exact ⟨rfl, rfl⟩
  all_goals exact .refl s

theorem answersNext_sectorErase (s : State) : AnswersNext .sectorEraseTransaction s := by
  refine ⟨_, rfl, ?_⟩
  split
  · split <;> exact ⟨rfl, rfl⟩
  all_goals exact .refl s

theorem answersNext_pageProgram (s : State) : AnswersNext .pageProgramTransaction s := by
  refine ⟨_, rfl, ?_⟩
  split
  · split <;> exact ⟨rfl, rfl⟩
  all_goals exact .refl s

theorem answersNext_pageRead (data : List Byte) (s : State) : AnswersNext (.pageRead data) s := by
  refine ⟨_, rfl, ?_⟩
  split
  · split
    · exact (queueKept_readDone _ _ _ data).after ⟨rfl, rfl⟩
    all_goals exact .refl s
  · exact .refl s

theorem answersNext_readyWaitTimeout (s : State) : AnswersNext .readyWaitTimeout s := by
  refine ⟨_, rfl, ?_⟩
  split
  · exact queueKept_opFailed s _
  all_goals exact .refl s

theorem answersNext_busyWaitTimeout (s : State) : AnswersNext .busyWaitTimeout s := by
  refine ⟨_, rfl, ?_⟩
  split
  · exact queueKept_opFailed s _
  all_goals exact .refl s

/-! ### Every command -/

/-- Log entries 3 and 17: what every command answers, whatever the state. -/
theorem exec_answersNext (c : Instr) (s : State) : AnswersNext c s := by
  cases c with
  | attach p => exact ⟨_, rfl, queueKept_serve fun _ _ _ => ⟨rfl, rfl⟩⟩
  | detach p => exact ⟨_, rfl, queueKept_serve fun t k _ => queueKept_resetPort t p (some k)⟩
  | define p => exact ⟨_, rfl, queueKept_serve fun t _ x => queueKept_serviceDefine x.1 x.2 t⟩
  | amend p => exact ⟨_, rfl, queueKept_serve fun t _ x => queueKept_serviceAmend x.1 x.2 t⟩
  | retire p => exact ⟨_, rfl, queueKept_serve fun t _ id => queueKept_serviceRetire id t⟩
  | renew p => exact ⟨_, rfl, queueKept_serve fun t _ id => queueKept_serviceRenew id t⟩
  | describe p => exact ⟨_, rfl, queueKept_serve fun t _ id => queueKept_serviceDescribe id t⟩
  | list p => exact ⟨_, rfl, queueKept_serve fun t _ _ => .refl t⟩
  | clear p => exact ⟨_, rfl, queueKept_serve fun t _ id => queueKept_serviceClear id t⟩
  | override p => exact ⟨_, rfl, queueKept_serve fun t _ x => queueKept_serviceOverride x.1 x.2 t⟩
  | report p => exact ⟨_, rfl, queueKept_serve fun t _ items => queueKept_serviceReport p items t⟩
  | watch p => exact ⟨_, rfl, queueKept_serve fun t _ id => queueKept_serviceWatch p id t⟩
  | unwatch p => exact ⟨_, rfl, queueKept_serve fun _ _ _ => ⟨rfl, rfl⟩⟩
  | fetch p => exact ⟨_, rfl, queueKept_serve fun _ _ _ => ⟨rfl, rfl⟩⟩
  | ack p => exact ⟨_, rfl, queueKept_serve fun t _ seq => queueKept_serviceAck p seq t⟩
  | claim p => exact ⟨_, rfl, queueKept_serve fun t _ duration => queueKept_serviceClaim p duration t⟩
  | release p => exact ⟨_, rfl, queueKept_serve fun t _ _ => queueKept_serviceRelease p t⟩
  | save p => exact ⟨_, rfl, queueKept_serve fun t _ _ => queueKept_serviceSave t⟩
  | settings p => exact ⟨_, rfl, queueKept_serve fun t _ interval => queueKept_serviceSettings interval t⟩
  | unknownRequestCode p => exact ⟨_, rfl, queueKept_grantRequest fun t _ _ => .refl t⟩
  | captureJob => exact answersNext_captureJob s
  | accrualJob => exact answersNext_accrualJob s
  | secondTick run => exact answersNext_secondTick run s
  | leaseUnitComplete => exact answersNext_leaseUnitComplete s
  | leaseExpiry => exact answersNext_leaseExpiry s
  | autosaveExpiry => exact answersNext_autosaveExpiry s
  | pfwAssert => exact answersNext_pfwAssert s
  | pfwDeassert => exact answersNext_pfwDeassert s
  | portReset p => exact answersNext_portReset p s
  | prstDeassert p => exact ⟨_, rfl, rfl, rfl⟩
  | deviceReset => exact ⟨_, exec_deviceReset s, rfl, rfl⟩
  | resetDeassert => exact answersNext_resetDeassert s
  | frameArrival p bytes => exact answersNext_frameArrival p bytes s
  | readSelect p => exact answersNext_readSelect p s
  | readEnd p clocked => exact ⟨_, rfl, rfl, rfl⟩
  | invalidSelectEnd p => exact answersNext_invalidSelectEnd p s
  | statusRead status => exact answersNext_statusRead status s
  | writeEnable => exact answersNext_writeEnable s
  | sectorEraseTransaction => exact answersNext_sectorErase s
  | pageProgramTransaction => exact answersNext_pageProgram s
  | pageRead data => exact answersNext_pageRead data s
  | readyWaitTimeout => exact answersNext_readyWaitTimeout s
  | busyWaitTimeout => exact answersNext_busyWaitTimeout s

/-! ### The obligations -/

/-- Settles O1: the state is the one that `step_cons` speaks of, its queue written as front and rest. -/
theorem stepRunsTheFrontCommand : Obligations.StepRunsTheFrontCommand := by
  intro c rest s h
  calc step s = step { s with pending := c :: rest } := by rw [← h]
    _ = exec c { s with pending := rest } := step_cons c rest s

/-- Settles O3: every command answers a next state that leaves the queue, by `exec_answersNext`. -/
theorem everyCommandAnswersANextState : Obligations.EveryCommandAnswersANextState := by
  intro c s
  obtain ⟨t, hnext, hpending, hfree⟩ := exec_answersNext c s
  exact ⟨t, hnext, hpending, hfree⟩

end Sys2Proof.Machine
end

section
/-!
SUPPORT. Which definition the fields of a DEFINE or of an entry record give (R3 to R5): each reading of a field has one equivalence,
and with them a definition is read off its fields.
-/
namespace Sys2Proof.Machine

/-! ### Fields in their ranges (R3, R5, R178) -/

theorem required_eq_some {lo hi n : Nat} {v : Option Nat} : required lo hi v = some n ↔ v = some n ∧ lo ≤ n ∧ n ≤ hi := by
  cases v with
  | none => simp [required]
  | some m =>
    rw [required, Option.bind_some, Option.ite_none_right_eq_some]
    constructor
    · rintro ⟨hm, ⟨⟩⟩
      exact ⟨rfl, hm⟩
    · rintro ⟨⟨⟩, hn⟩
      exact ⟨hn, rfl⟩

theorem optional_eq_some {lo hi dflt n : Nat} {v : Option Nat} :
    optional lo hi dflt v = some n ↔ v.getD dflt = n ∧ lo ≤ n ∧ n ≤ hi := by
  rw [optional, required_eq_some, Option.some_inj]

/-- A default in the range leaves the range to the fields that are present. -/
theorem getD_bounds_iff {lo hi dflt : Nat} (hlo : lo ≤ dflt) (hhi : dflt ≤ hi) (v : Option Nat) :
    (lo ≤ v.getD dflt ∧ v.getD dflt ≤ hi) ↔ ∀ n, v = some n → lo ≤ n ∧ n ≤ hi := by
  cases v with
  | none => simp [hlo, hhi]
  | some n => simp

theorem classOf_eq_some {v : Option Nat} {c : IndicatorClass} : classOf v = some c ↔ v = some c.code := by
  unfold classOf
  split
  · cases c <;> simp [IndicatorClass.code]
  · cases c <;> simp [IndicatorClass.code]
  · next h1 h2 => cases c <;> simpa [IndicatorClass.code]

theorem gateOf_eq_some {v : Option Nat} {g : Gate} : gateOf v = some g ↔ v = some g.code := by
  unfold gateOf
  split
  · cases g <;> simp [Gate.code]
  · cases g <;> simp [Gate.code]
  · next h1 h2 => cases g <;> simpa [Gate.code]

theorem labelOk_iff {l : List Byte} :
    labelOk l = true ↔ l.length ≤ 16 ∧ ∀ c ∈ l, 0x20 ≤ c.toNat ∧ c.toNat ≤ 0x7E := by
  simp only [labelOk, Bool.and_eq_true, List.all_eq_true, decide_eq_true_eq]

theorem Fields.noRatio_iff {f : Fields} :
    f.noRatio = true ↔ f.nominal = none ∧ f.minExposure = none ∧ f.epochSize = none ∧ f.depth = none := by
  simp only [Fields.noRatio, Bool.and_eq_true, Option.isNone_iff_eq_none, and_assoc]

/-! ### The kind with its fields (R3, R4) -/

/-- R3, R4: the fields give this kind: those that belong to it lie in their ranges, the others are absent. -/
def KindDef.GivenBy (f : Fields) : KindDef → Prop
  | .tally b => f.kind = some 1 ∧ f.noRatio = true ∧ f.gate = none ∧ f.budget = some b ∧ 1 ≤ b ∧ b ≤ Config.max32
  | .runtime g b =>
    f.kind = some 2 ∧ f.noRatio = true ∧ f.gate = some g.code ∧ f.budget = some b ∧ 1 ≤ b ∧ b ≤ Config.max32
  | .ratio d =>
    f.kind = some 3 ∧ f.gate = none ∧ f.budget = none ∧ (f.nominal = some d.nominal ∧ 1 ≤ d.nominal ∧ d.nominal ≤ 1000000) ∧
      (f.minExposure = some d.minExposure ∧ 1 ≤ d.minExposure ∧ d.minExposure ≤ Config.max32) ∧
      (f.epochSize = some d.epochSize ∧ 1 ≤ d.epochSize ∧ d.epochSize ≤ 2147483648) ∧
      (f.depth = some d.depth ∧ 1 ≤ d.depth ∧ d.depth ≤ 8)

theorem KindDef.GivenBy.kindDefOf {f : Fields} {kd : KindDef} (h : kd.GivenBy f) : kindDefOf f = some kd := by
  unfold Machine.kindDefOf
  cases kd with
  | tally b =>
    obtain ⟨hkind, hno, hgate, hbudget⟩ := h
    simp [hkind, hno, hgate, required_eq_some.2 hbudget]
  | runtime g b =>
    obtain ⟨hkind, hno, hgate, hbudget⟩ := h
    simp [hkind, hno, gateOf_eq_some.2 hgate, required_eq_some.2 hbudget]
  | ratio d =>
    obtain ⟨hkind, hgate, hbudget, hnominal, hmin, hepoch, hdepth⟩ := h
    simp [hkind, hgate, hbudget, required_eq_some.2 hnominal, required_eq_some.2 hmin, required_eq_some.2 hepoch,
      required_eq_some.2 hdepth]

theorem KindDef.givenBy_of_kindDefOf {f : Fields} {kd : KindDef} (h : kindDefOf f = some kd) : kd.GivenBy f := by
  unfold Machine.kindDefOf at h
  split at h
  · next hkind =>
    rw [Option.ite_none_right_eq_some, Bool.and_eq_true, Option.isNone_iff_eq_none, Option.map_eq_some_iff] at h
    obtain ⟨⟨hno, hgate⟩, b, hb, rfl⟩ := h
    exact ⟨hkind, hno, hgate, required_eq_some.1 hb⟩
  · next hkind =>
    simp only [Option.ite_none_right_eq_some, Option.bind_eq_bind, Option.bind_eq_some_iff] at h
    obtain ⟨hno, g, hg, b, hb, ⟨⟩⟩ := h
    exact ⟨hkind, hno, gateOf_eq_some.1 hg, required_eq_some.1 hb⟩
  · next hkind =>
    simp only [Option.ite_none_right_eq_some, Bool.and_eq_true, Option.isNone_iff_eq_none, Option.bind_eq_bind,
      Option.bind_eq_some_iff, required_eq_some] at h
    obtain ⟨⟨hgate, hbudget⟩, n, hn, m, hm, x, hx, d, hd, ⟨⟩⟩ := h
    exact ⟨hkind, hgate, hbudget, hn, hm, hx, hd⟩
  · cases h

theorem kindDefOf_eq_some {f : Fields} {kd : KindDef} : kindDefOf f = some kd ↔ kd.GivenBy f :=
  ⟨KindDef.givenBy_of_kindDefOf, KindDef.GivenBy.kindDefOf⟩

/-- R3, R4: the fields give some kind. -/
theorem exists_givenBy_iff (f : Fields) : (∃ kd : KindDef, kd.GivenBy f) ↔
    (f.kind = some 1 ∧ f.gate = none ∧ f.nominal = none ∧ f.minExposure = none ∧ f.epochSize = none ∧ f.depth = none ∧
        ∃ b, f.budget = some b ∧ 1 ≤ b ∧ b ≤ 4294967295) ∨
      (f.kind = some 2 ∧ f.nominal = none ∧ f.minExposure = none ∧ f.epochSize = none ∧ f.depth = none ∧
        (f.gate = some 1 ∨ f.gate = some 2) ∧ ∃ b, f.budget = some b ∧ 1 ≤ b ∧ b ≤ 4294967295) ∨
      (f.kind = some 3 ∧ f.gate = none ∧ f.budget = none ∧
        (∃ n, f.nominal = some n ∧ 1 ≤ n ∧ n ≤ 1000000) ∧ (∃ n, f.minExposure = some n ∧ 1 ≤ n ∧ n ≤ 4294967295) ∧
        (∃ n, f.epochSize = some n ∧ 1 ≤ n ∧ n ≤ 2147483648) ∧ (∃ n, f.depth = some n ∧ 1 ≤ n ∧ n ≤ 8)) := by
  constructor
  · rintro ⟨kd, h⟩
    cases kd with
    | tally b =>
      obtain ⟨hkind, hno, hgate, hbudget⟩ := h
      obtain ⟨hnominal, hmin, hepoch, hdepth⟩ := Fields.noRatio_iff.1 hno
      exact .inl ⟨hkind, hgate, hnominal, hmin, hepoch, hdepth, b, hbudget⟩
    | runtime g b =>
      obtain ⟨hkind, hno, hgate, hbudget⟩ := h
      obtain ⟨hnominal, hmin, hepoch, hdepth⟩ := Fields.noRatio_iff.1 hno
      refine .inr (.inl ⟨hkind, hnominal, hmin, hepoch, hdepth, ?_, b, hbudget⟩)
      cases g with
      | run => exact .inl hgate
      | powered => exact .inr hgate
    | ratio d =>
      obtain ⟨hkind, hgate, hbudget, hnominal, hmin, hepoch, hdepth⟩ := h
      exact .inr (.inr ⟨hkind, hgate, hbudget, ⟨_, hnominal⟩, ⟨_, hmin⟩, ⟨_, hepoch⟩, ⟨_, hdepth⟩⟩)
  · rintro (⟨hkind, hgate, hnominal, hmin, hepoch, hdepth, b, hb⟩ | ⟨hkind, hnominal, hmin, hepoch, hdepth, hgate, b, hb⟩ |
      ⟨hkind, hgate, hbudget, ⟨n, hn⟩, ⟨m, hm⟩, ⟨x, hx⟩, ⟨d, hd⟩⟩)
    · exact ⟨.tally b, hkind, Fields.noRatio_iff.2 ⟨hnominal, hmin, hepoch, hdepth⟩, hgate, hb⟩
    · have hno := Fields.noRatio_iff.2 ⟨hnominal, hmin, hepoch, hdepth⟩
      rcases hgate with hgate | hgate
      · exact ⟨.runtime .run b, hkind, hno, hgate, hb⟩
      · exact ⟨.runtime .powered b, hkind, hno, hgate, hb⟩
    · exact ⟨.ratio ⟨n, m, x, d⟩, hkind, hgate, hbudget, hn, hm, hx, hd⟩

/-! ### The definition (R3 to R5) -/

/-- R3 to R5: the fields give this definition, with the defaults of R3. -/
structure Definition.GivenBy (f : Fields) (d : Definition) : Prop where
  kind : d.kind.GivenBy f
  cls : f.cls = some d.cls.code
  writers : d.writers = writersOf (f.writers.getD 15)
  writersRange : f.writers.getD 15 ≤ 15
  trip : f.trip = some d.trip ∧ d.trip ≤ 199
  hyst : f.hyst.getD 5 = d.hyst ∧ 1 ≤ d.hyst ∧ d.hyst ≤ 50
  label : d.label = f.label.getD []
  labelRange : labelOk d.label = true

theorem definitionOf_eq_some {f : Fields} {d : Definition} : definitionOf f = some d ↔ d.GivenBy f := by
  simp only [definitionOf, Option.bind_eq_bind, Option.bind_eq_some_iff, Option.ite_none_right_eq_some, kindDefOf_eq_some,
    classOf_eq_some, optional_eq_some, required_eq_some]
  constructor
  · rintro ⟨kd, hkind, c, hcls, w, ⟨rfl, -, hw⟩, t, ⟨ht, -, htmax⟩, x, hx, hlabel, ⟨⟩⟩
    exact ⟨hkind, hcls, rfl, hw, ⟨ht, htmax⟩, hx, rfl, hlabel⟩
  · obtain ⟨kind, cls, writers, trip, hyst, label⟩ := d
    rintro ⟨hkind, hcls, hwriters, hw, ⟨ht, htmax⟩, hx, hlabel, hok⟩
    dsimp only at *
    subst hwriters hlabel
    exact ⟨kind, hkind, cls, hcls, _, ⟨rfl, Nat.zero_le _, hw⟩, trip, ⟨ht, Nat.zero_le _, htmax⟩, hyst, hx, hok, rfl⟩

/-- R3 to R5: the fields give some definition exactly if they give a kind and the other fields lie in their ranges. -/
theorem definitionOf_isSome_iff (f : Fields) : (definitionOf f).isSome = true ↔
    (∃ kd : KindDef, kd.GivenBy f) ∧ (∃ c : IndicatorClass, f.cls = some c.code) ∧ f.writers.getD 15 ≤ 15 ∧
      (∃ n, f.trip = some n ∧ n ≤ 199) ∧ (1 ≤ f.hyst.getD 5 ∧ f.hyst.getD 5 ≤ 50) ∧ labelOk (f.label.getD []) = true := by
  simp only [Option.isSome_iff_exists, definitionOf_eq_some]
  constructor
  · rintro ⟨d, h⟩
    exact ⟨⟨_, h.kind⟩, ⟨_, h.cls⟩, h.writersRange, ⟨_, h.trip⟩, h.hyst.1 ▸ h.hyst.2, h.label ▸ h.labelRange⟩
  · rintro ⟨⟨kd, hkind⟩, ⟨c, hcls⟩, hw, ⟨n, hn⟩, hx, hlabel⟩
    exact ⟨⟨kd, c, writersOf (f.writers.getD 15), n, f.hyst.getD 5, f.label.getD []⟩, hkind, hcls, rfl, hw, hn, ⟨rfl, hx⟩, rfl,
      hlabel⟩

theorem exists_classCode_iff (v : Option Nat) : (∃ c : IndicatorClass, v = some c.code) ↔ v = some 1 ∨ v = some 2 := by
  constructor
  · rintro ⟨c, hc⟩
    cases c with
    | urgent => exact .inl hc
    | planned => exact .inr hc
  · rintro (h | h)
    · exact ⟨.urgent, h⟩
    · exact ⟨.planned, h⟩

/-- Settles O12: `definitionOf_isSome_iff` says which fields make a definition, `definitionOf_eq_some` which one. -/
theorem definitionsTakeFieldsInRange : Obligations.DefinitionsTakeFieldsInRange := by
  refine fun f => ⟨?_, fun d hd => ?_⟩
  · have hwriters : f.writers.getD 15 ≤ 15 ↔ ∀ n, f.writers = some n → n ≤ 15 := by
      have h := getD_bounds_iff (Nat.zero_le 15) (Nat.le_refl 15) f.writers
      simpa using h
    have hlabel : labelOk (f.label.getD []) = true ↔
        ∀ l, f.label = some l → l.length ≤ 16 ∧ ∀ c ∈ l, 0x20 ≤ c.toNat ∧ c.toNat ≤ 0x7E := by
      rw [labelOk_iff]
      cases f.label <;> simp
    rw [definitionOf_isSome_iff, exists_givenBy_iff, exists_classCode_iff, hwriters,
      getD_bounds_iff (show 1 ≤ 5 by decide) (show 5 ≤ 50 by decide), hlabel]
  · have h := definitionOf_eq_some.1 hd
    have hkind := h.kind
    refine ⟨?_, ?_, h.writers, h.trip.1, h.hyst.1.symm, h.label⟩
    · cases hk : d.kind with
      | tally b =>
        rw [hk] at hkind
        obtain ⟨hk, -, -, hb, -⟩ := hkind
        exact ⟨hk, hb⟩
      | runtime g b =>
        rw [hk] at hkind
        obtain ⟨hk, -, hg, hb, -⟩ := hkind
        refine ⟨hk, hb, ?_⟩
        cases g <;> exact hg
      | ratio rd =>
        rw [hk] at hkind
        obtain ⟨hk, -, -, ⟨hn, -⟩, ⟨hm, -⟩, ⟨hx, -⟩, ⟨hd, -⟩⟩ := hkind
        exact ⟨hk, hn, hm, hx, hd⟩
    · have hcls := h.cls
      cases hc : d.cls <;> rw [hc] at hcls <;> exact hcls

end Sys2Proof.Machine
end

section
/-!
SUPPORT. Entries stay sound (R3, R5, R7, R25, R40, R45, R70) under each computation on an entry: evaluation, scoring, DEFINE, AMEND,
RENEW, CLEAR, added units, an applied observation.
-/
namespace Sys2Proof.Machine

/-! ### Verdicts (R45, R47 to R50) -/

/-- R47: SETTLING is left with the settlement indication alone, and never entered. -/
theorem nextVerdict_eq_settling_iff (b : Bool) (cls : IndicatorClass) (score trip hyst : Nat) (v : Verdict) :
    nextVerdict b cls score trip hyst v = .settling ↔ v = .settling ∧ b = false := by
  cases v with
  | settling =>
    cases b with
    | false => simp [nextVerdict]
    | true => by_cases h : score ≤ trip <;> simp [nextVerdict, h]
  | good => by_cases h : score ≤ trip <;> simp [nextVerdict, h]
  | tripped =>
    rw [nextVerdict_tripped]
    by_cases h : releaseLevel trip hyst ≤ score
    · by_cases hc : cls = .urgent <;> simp [h, hc]
    · simp [h]
  | held => by_cases h : score ≤ trip <;> simp [nextVerdict, h]

/-- R49: HELD is entered by an URGENT entry alone. -/
theorem urgent_of_nextVerdict_held {b : Bool} {cls : IndicatorClass} {score trip hyst : Nat} {v : Verdict}
    (h : nextVerdict b cls score trip hyst v = .held) : v = .held ∨ cls = .urgent := by
  cases v with
  | settling =>
    cases b with
    | false => cases h
    | true => by_cases hs : score ≤ trip <;> simp [nextVerdict, hs] at h
  | good => by_cases hs : score ≤ trip <;> simp [nextVerdict, hs] at h
  | tripped =>
    rw [nextVerdict_tripped] at h
    by_cases hc : cls = .urgent
    · exact .inr hc
    · by_cases hr : releaseLevel trip hyst ≤ score <;> simp [hr, hc] at h
  | held => exact .inl rfl

theorem initialVerdict_settling_iff (e : Entry) (hfresh : ∀ d st, e.data = .ratio d st → st.settled = false) :
    initialVerdict e.data = .settling ↔ e.unsettled = true := by
  unfold Entry.unsettled
  cases hdata : e.data with
  | tally b => simp [initialVerdict]
  | runtime g b => simp [initialVerdict]
  | ratio d st => simp [initialVerdict, hfresh d st hdata]

theorem initialVerdict_ne_held (d : KindData) : initialVerdict d ≠ .held := by cases d <;> simp [initialVerdict]

theorem Entry.kind_eq_ratio_iff (e : Entry) : e.kind = .ratio ↔ ∃ d st, e.data = .ratio d st := by
  unfold Entry.kind
  cases e.data <;> simp

theorem Entry.unsettled_of_kind {e : Entry} (h : e.kind ≠ .ratio) : e.unsettled = false := by
  unfold Entry.unsettled
  split
  · next d st hdata => exact absurd (e.kind_eq_ratio_iff.2 ⟨d, st, hdata⟩) h
  · rfl

section
variable {e : Entry}

/-! ### Evaluation and scoring (R40, R46) -/

/-- R46: an evaluation without the settlement indication. -/
theorem Entry.Sound.evaluate (h : e.Sound) : (e.evaluate false).Sound :=
  { h with
    settling := by
      rw [Entry.evaluate_computed, nextVerdict_eq_settling_iff]
      exact (and_iff_left rfl).trans h.settling
    held := fun hheld => (urgent_of_nextVerdict_held hheld).elim h.held fun hc => hc }

/-- R26, R40: a usage score takes its place. -/
theorem Entry.Sound.setUsage (h : e.Sound) (hkind : e.kind ≠ .ratio) (raw budget : Nat) :
    (e.setScore (usageScore raw budget)).Sound := by
  obtain ⟨hpos, hmax⟩ := usageScore_bounds raw budget
  obtain ⟨hworst, hworstMax, -⟩ := h.worst
  have hkind' : (e.setScore (usageScore raw budget)).kind ≠ .ratio := hkind
  have hunsettled : (e.setScore (usageScore raw budget)).unsettled = false := Entry.unsettled_of_kind hkind'
  exact
    { h with
      score := ⟨hpos, by rw [if_neg hkind']; exact hmax⟩
      unsettled := fun hu => absurd hu (by simp [hunsettled])
      worst := ⟨Nat.le_min.2 ⟨hworst, hpos⟩, Nat.le_trans (Nat.min_le_left ..) hworstMax, Nat.min_le_right ..⟩ }

/-! ### DEFINE (R3, R16) -/

/-- R42: the lowest free records, the first of them apart. -/
theorem headD_cons_tail_take {free : List Nat} {n : Nat} (h : n + 1 ≤ free.length) :
    free.headD 0 :: (free.take (n + 1)).tail = free.take (n + 1) := by
  cases free with
  | nil => simp at h
  | cons x xs => rfl

/-- R3, R16: the kind data of a new entry lie in their ranges. -/
theorem KindDef.GivenBy.fresh_sound {f : Fields} {kd : KindDef} (h : kd.GivenBy f) {free : List Nat}
    (hfree : kd.recordsNeeded ≤ free.length) : (kd.fresh free).Sound := by
  cases kd with
  | tally b =>
    obtain ⟨-, -, -, -, hb⟩ := h
    exact hb
  | runtime g b =>
    obtain ⟨-, -, -, -, hb⟩ := h
    exact hb
  | ratio d =>
    obtain ⟨-, -, -, ⟨-, hn⟩, ⟨-, hm⟩, ⟨-, hx⟩, ⟨-, hd⟩⟩ := h
    have hfree : d.depth + 1 ≤ free.length := hfree
    refine ⟨hn, hm, hx, hd, Nat.zero_le _, ?_⟩
    simp only [List.length_nil, List.length_tail, List.length_take]
    omega

theorem KindDef.fresh_unsettled (kd : KindDef) (free : List Nat) (d : RatioDef) (st : RatioState)
    (h : kd.fresh free = .ratio d st) : st.settled = false := by
  cases kd with
  | ratio d' =>
    cases h
    rfl
  | tally b => cases h
  | runtime g b => cases h

/-- R16: the entry that DEFINE creates, before and after its evaluation. -/
theorem newEntry_sound {table : List Entry} {id : Nat} {f : Fields} {d : Definition} (h : d.GivenBy f)
    (hfree : d.kind.recordsNeeded ≤ (freeRecords table).length) : (newEntry table id d).Sound where
  data := h.kind.fresh_sound hfree
  trip := h.trip.2
  hyst := h.hyst.2
  label := h.labelRange
  raw := Nat.zero_le _
  score := ⟨by show 1 ≤ 100; decide, by show 100 ≤ _; split <;> decide⟩
  unsettled := fun _ => rfl
  worst := ⟨by show 1 ≤ 100; decide, Nat.le_refl _, Nat.le_refl _⟩
  settling := initialVerdict_settling_iff (newEntry table id d) (KindDef.fresh_unsettled d.kind _)
  held := fun hheld => absurd hheld (initialVerdict_ne_held _)
  tags := ⟨Nat.zero_le _, List.nodup_nil, by simp [newEntry]⟩
  runtimeTags := fun _ => rfl

/-! ### AMEND (R17, R18) -/

/-- R17: the range of a field that an AMEND may carry. -/
theorem all_eq_true_of_some {p : α → Bool} {v : Option α} (h : v.all p = true) (dflt : α) (hd : p dflt = true) :
    p (v.getD dflt) = true := by
  cases v with
  | none => exact hd
  | some x => exact h

theorem KindData.Sound.setBudget {d : KindData} (h : d.Sound) {budget : Option Nat}
    (hb : budget.all (fun n => decide (1 ≤ n) && decide (n ≤ Config.max32)) = true) : (d.setBudget budget).Sound := by
  have hrange : ∀ b, 1 ≤ b ∧ b ≤ Config.max32 → 1 ≤ budget.getD b ∧ budget.getD b ≤ Config.max32 := by
    intro b hrange
    simpa using all_eq_true_of_some hb b (by simp [hrange])
  cases d with
  | tally b => exact hrange b h
  | runtime g b => exact hrange b h
  | ratio d st => exact h

/-- R18 step 1: the entry with the present fields replaced. -/
def Entry.withFields (f : Fields) (e : Entry) : Entry :=
  { e with
    data := e.data.setBudget f.budget
    writers := (f.writers.map writersOf).getD e.writers
    trip := f.trip.getD e.trip
    hyst := f.hyst.getD e.hyst
    label := f.label.getD e.label }

theorem Entry.amend_eq (f : Fields) (e : Entry) :
    e.amend f = (if f.budget.isSome then (e.withFields f).rescore else e.withFields f).evaluate false := rfl

@[simp] theorem Entry.withFields_kind (f : Fields) (e : Entry) : (e.withFields f).kind = e.kind := by
  cases hdata : e.data <;> simp [Entry.withFields, Entry.kind, hdata, KindData.setBudget]

@[simp] theorem Entry.withFields_unsettled (f : Fields) (e : Entry) : (e.withFields f).unsettled = e.unsettled := by
  cases hdata : e.data <;> simp [Entry.withFields, Entry.unsettled, hdata, KindData.setBudget]

@[simp] theorem Entry.withFields_records (f : Fields) (e : Entry) : (e.withFields f).records = e.records := by
  cases hdata : e.data <;> simp [Entry.withFields, Entry.records, hdata, KindData.setBudget]

theorem Entry.Sound.withFields (h : e.Sound) {f : Fields} (hok : f.amendOk e.kind = true) : (e.withFields f).Sound := by
  simp only [Fields.amendOk, Bool.and_eq_true] at hok
  obtain ⟨⟨⟨⟨-, hbudget⟩, htrip⟩, hhyst⟩, hlabel⟩ := hok
  have hb : f.budget.all (fun n => decide (1 ≤ n) && decide (n ≤ Config.max32)) = true := by
    cases hf : f.budget with
    | none => rfl
    | some b =>
      rw [hf] at hbudget
      simp only [Option.all_some, Bool.and_eq_true] at hbudget ⊢
      exact ⟨hbudget.1.2, hbudget.2⟩
  exact
    { h with
      data := h.data.setBudget hb
      trip := by simpa [Entry.withFields] using all_eq_true_of_some htrip e.trip (by simp [h.trip])
      hyst := by simpa [Entry.withFields] using all_eq_true_of_some hhyst e.hyst (by simp [h.hyst])
      label := all_eq_true_of_some hlabel e.label h.label
      score := by rw [Entry.withFields_kind]; exact h.score
      unsettled := by rw [Entry.withFields_unsettled]; exact h.unsettled
      settling := by rw [Entry.withFields_unsettled]; exact h.settling
      runtimeTags := by rw [Entry.withFields_kind]; exact h.runtimeTags }

/-- R18 step 2: a score is computed again for an entry with a budget alone. -/
theorem Entry.rescore_usage (e : Entry) : e.rescore = e ∨
    e.kind ≠ .ratio ∧ ∃ b, e.rescore = e.setScore (usageScore e.rawTotal b) := by
  unfold Entry.rescore Entry.kind
  cases e.data with
  | tally b => exact .inr ⟨by simp, b, rfl⟩
  | runtime g b => exact .inr ⟨by simp, b, rfl⟩
  | ratio d st => exact .inl rfl

theorem Entry.Sound.rescore (h : e.Sound) : e.rescore.Sound := by
  rcases e.rescore_usage with heq | ⟨hkind, b, heq⟩
  · rwa [heq]
  · rw [heq]
    exact h.setUsage hkind _ _

theorem Entry.Sound.amend (h : e.Sound) {f : Fields} (hok : f.amendOk e.kind = true) : (e.amend f).Sound := by
  rw [Entry.amend_eq]
  split
  · exact (h.withFields hok).rescore.evaluate
  · exact (h.withFields hok).evaluate

theorem Entry.rescore_records (e : Entry) : e.rescore.records = e.records := by
  rcases e.rescore_usage with heq | ⟨-, b, heq⟩
  · rw [heq]
  · rw [heq]
    rfl

@[simp] theorem Entry.amend_records (f : Fields) (e : Entry) : (e.amend f).records = e.records := by
  rw [Entry.amend_eq]
  split
  · exact (Entry.rescore_records _).trans (e.withFields_records f)
  · exact e.withFields_records f

/-! ### RENEW and CLEAR (R21, R43, R52) -/

/-- R21: the entry that RENEW evaluates. -/
def Entry.restart (e : Entry) : Entry :=
  { e with
    data := e.data.renew, rawTotal := 0, saturated := false, score := 100, worst := 100
    computed := initialVerdict e.data, tags := [] }

theorem Entry.renew_eq (e : Entry) : e.renew = e.restart.evaluate false := rfl

theorem initialVerdict_renew (d : KindData) : initialVerdict d.renew = initialVerdict d := by cases d <;> rfl

theorem KindData.renew_unsettled (k : KindData) (d : RatioDef) (st : RatioState) (h : k.renew = .ratio d st) :
    st.settled = false := by
  cases k with
  | ratio d' st' =>
    cases h
    rfl
  | tally b => cases h
  | runtime g b => cases h

/-- R43: the records of an entry in ascending order, the first of them apart. -/
theorem headD_cons_tail_ascending {ns : List Nat} (hpos : ns ≠ []) (hnodup : ns.Nodup)
    (hlt : ∀ n ∈ ns, n < Config.poolSize) : (ascending ns).headD 0 :: (ascending ns).tail = ascending ns := by
  have hlen := (ascending_perm hnodup hlt).length_eq
  cases h : ascending ns with
  | nil =>
    rw [h] at hlen
    exact absurd (List.length_eq_zero_iff.1 hlen.symm) hpos
  | cons x xs => rfl

/-- R43: RENEW arranges the records that the entry holds. -/
theorem Entry.renew_records_perm (hnodup : e.records.Nodup) (hlt : ∀ n ∈ e.records, n < Config.poolSize) :
    e.renew.records.Perm e.records := by
  have heq : e.renew.records = e.restart.records := rfl
  rw [heq]
  cases hdata : e.data with
  | tally b => simp [Entry.restart, Entry.records, hdata, KindData.renew]
  | runtime g b => simp [Entry.restart, Entry.records, hdata, KindData.renew]
  | ratio d st =>
    have hrec : e.records = st.closed ++ st.opened :: st.spares := by rw [Entry.records, hdata]
    rw [hrec] at hnodup hlt
    have hlist : e.restart.records = ascending (st.closed ++ st.opened :: st.spares) := by
      rw [← headD_cons_tail_ascending (by simp) hnodup hlt]
      simp [Entry.restart, Entry.records, hdata, KindData.renew]
    rw [hlist, hrec]
    exact ascending_perm hnodup hlt

theorem KindData.Sound.renew {k : KindData} (h : k.Sound) (hnodup : ∀ d st, k = .ratio d st →
    (st.closed ++ st.opened :: st.spares).Nodup ∧ ∀ n ∈ st.closed ++ st.opened :: st.spares, n < Config.poolSize) :
    k.renew.Sound := by
  cases k with
  | tally b => exact h
  | runtime g b => exact h
  | ratio d st =>
    obtain ⟨hn, hm, hx, hd, -, hlen⟩ := h
    obtain ⟨hnodup, hlt⟩ := hnodup d st rfl
    refine ⟨hn, hm, hx, hd, Nat.zero_le _, ?_⟩
    have hperm := (ascending_perm hnodup hlt).length_eq
    simp only [List.length_append, List.length_cons] at hperm
    simp only [List.length_nil, List.length_tail]
    omega

theorem Entry.Sound.renew (h : e.Sound) (hnodup : e.records.Nodup) (hlt : ∀ n ∈ e.records, n < Config.poolSize) :
    e.renew.Sound := by
  rw [Entry.renew_eq]
  have hdata : e.data.renew.Sound := h.data.renew fun d st hdata => by
    rw [show st.closed ++ st.opened :: st.spares = e.records by rw [Entry.records, hdata]]
    exact ⟨hnodup, hlt⟩
  refine Entry.Sound.evaluate
    { h with
      data := hdata
      raw := Nat.zero_le _
      score := ⟨by show 1 ≤ 100; decide, by show 100 ≤ _; split <;> decide⟩
      unsettled := fun _ => rfl
      worst := ⟨by show 1 ≤ 100; decide, Nat.le_refl _, Nat.le_refl _⟩
      settling := ?_
      held := fun hheld => absurd hheld (initialVerdict_ne_held _)
      tags := ⟨Nat.zero_le _, List.nodup_nil, by simp [Entry.restart]⟩
      runtimeTags := fun _ => rfl }
  have hiff := initialVerdict_settling_iff e.restart (KindData.renew_unsettled e.data)
  rw [← hiff]
  exact ⟨fun hv => (initialVerdict_renew e.data).trans hv, fun hv => (initialVerdict_renew e.data).symm.trans hv⟩

/-- R52: a HELD entry is cleared. -/
theorem Entry.Sound.clear (h : e.Sound) (hheld : e.computed = .held) : e.clear.Sound := by
  have hsettled : ¬ e.unsettled = true := by
    rw [← h.settling, hheld]
    simp
  refine Entry.Sound.evaluate (e := { e with computed := .good })
    { h with
      settling := ⟨fun hv => by simp at hv, fun hu => absurd hu hsettled⟩
      held := fun hv => by simp at hv }

/-- R54, R56: the override is no part of what makes an entry sound. -/
theorem Entry.dropOverride_sound_iff (e : Entry) : e.dropOverride.Sound ↔ e.Sound :=
  ⟨fun h => { h with }, fun h => { h with }⟩

/-! ### Tags and added units (R27, R70, R72) -/

/-- R70: a new tag enters the history. -/
theorem Entry.Sound.enterTag (h : e.Sound) (hkind : e.kind ≠ .runtime) {tag : Option Nat} (hnew : ∀ t ∈ tag, t ∉ e.tags)
    (hrange : ∀ t ∈ tag, 1 ≤ t ∧ t ≤ Config.max32) : (e.enterTag tag).Sound := by
  cases tag with
  | none => exact h
  | some t =>
    obtain ⟨hlen, hnodup, htags⟩ := h.tags
    have ht := hnew t rfl
    have hlen : e.tags.length ≤ 8 := hlen
    have hsub : (if e.tags.length < 8 then e.tags else e.tags.tail).Sublist e.tags := by
      split
      · exact List.Sublist.refl _
      · exact List.tail_sublist _
    have hshort : (if e.tags.length < 8 then e.tags else e.tags.tail).length ≤ 7 := by
      split
      · omega
      · rw [List.length_tail]
        omega
    rw [Entry.enterTag_some]
    refine { h with tags := ⟨?_, ?_, ?_⟩, runtimeTags := fun hk => absurd hk hkind }
    · rw [List.length_append, List.length_singleton, Config.tagSize]
      omega
    · rw [List.nodup_append]
      refine ⟨hnodup.sublist hsub, List.nodup_singleton _, fun a ha b hb => ?_⟩
      rw [List.mem_singleton.1 hb]
      exact fun hab => ht (hab ▸ hsub.subset ha)
    · intro x hx
      rcases List.mem_append.1 hx with hx | hx
      · exact htags x (hsub.subset hx)
      · rw [List.mem_singleton.1 hx]
        exact hrange t rfl

/-- R27, R72: units are added to an entry with a budget. -/
theorem Entry.Sound.addUnits (h : e.Sound) (hkind : e.kind ≠ .ratio) (budget n : Nat) : (e.addUnits budget n).Sound := by
  have hraw : Entry.Sound { e with
      rawTotal := satAdd48 e.rawTotal n
      saturated := e.saturated || decide (satAdd48 e.rawTotal n = Config.max48) } :=
    { h with raw := satAdd48_le _ _ }
  exact (hraw.setUsage hkind _ _).evaluate

theorem Entry.Sound.accrue (h : e.Sound) (a : Accrual) : (e.accrue a).Sound := by
  unfold Entry.accrue
  split
  · next gate budget hdata =>
    split
    · exact h
    · exact h.addUnits (by simp [Entry.kind, hdata]) _ _
  · exact h
  · exact h

theorem Entry.accrue_records (a : Accrual) (e : Entry) : (e.accrue a).records = e.records := by
  unfold Entry.accrue
  split
  · split <;> rfl
  · rfl
  · rfl

end

/-! ### The epoch window (R32 to R36) -/

section
variable {d : RatioDef} {pool : List EpochRecord} {st : RatioState}

/-- R32 to R34: a closing arranges the records of the window anew and keeps how many are closed or spare. -/
theorem closeEpoch_window (d : RatioDef) (pool : List EpochRecord) (st : RatioState) :
    ((closeEpoch d pool st).2.closed ++ (closeEpoch d pool st).2.opened :: (closeEpoch d pool st).2.spares).Perm
        (st.closed ++ st.opened :: st.spares) ∧
      (closeEpoch d pool st).2.closed.length + (closeEpoch d pool st).2.spares.length =
        st.closed.length + st.spares.length := by
  unfold closeEpoch
  split
  · exact ⟨.refl _, rfl⟩
  · split
    · split
      · exact ⟨.refl _, rfl⟩
      · next x xs hs => simp [hs]; omega
    · split
      · exact ⟨.refl _, rfl⟩
      · next x xs hs =>
        refine ⟨?_, by simp [hs]⟩
        rw [hs, List.append_assoc, List.singleton_append, List.cons_append]
        have hswap : (xs ++ st.opened :: x :: st.spares).Perm (xs ++ x :: st.opened :: st.spares) :=
          (List.Perm.swap _ _ _).append_left xs
        exact hswap.trans List.perm_middle

end

/-- R36, R38: the score of a RATIO entry lies in its range, and is 100 until it settles. -/
theorem ratioScoreOf_bounds (d : RatioDef) (pool : List EpochRecord) (st : RatioState) :
    1 ≤ ratioScoreOf d pool st ∧ ratioScoreOf d pool st ≤ 200 ∧ (st.settled = false → ratioScoreOf d pool st = 100) := by
  unfold ratioScoreOf
  split
  · next hs =>
    obtain ⟨hpos, hmax⟩ := ratioScore_bounds (windowErrors pool st) (windowExposure pool st) d.nominal
    exact ⟨hpos, hmax, fun hc => by simp [hs] at hc⟩
  · exact ⟨by decide, by decide, fun _ => rfl⟩

section
variable {e : Entry} {d : RatioDef} {st : RatioState}

/-- R39: one applied observation. -/
theorem Entry.Sound.addObservation (h : e.Sound) (hdata : e.data = .ratio d st) (free errors exposure : Nat)
    (pool : List EpochRecord) : (e.addObservation free d st errors exposure pool).2.Sound := by
  obtain ⟨⟨pool', st'⟩, hw⟩ : ∃ w, observe free d st errors exposure pool = w := ⟨_, rfl⟩
  have hlife := observe_lifetime hw
  have hsettled := observe_settled hw
  have hwindow := (closeEpoch_window d (addCounts free pool st.opened errors exposure)
    { st with lifetime := satAdd48 st.lifetime exposure }).2
  have hlen : st'.closed.length + st'.spares.length = st.closed.length + st.spares.length := by
    obtain ⟨-, rfl⟩ := Prod.mk.inj hw
    exact hwindow
  obtain ⟨hpos, hmax, hunsettled⟩ := ratioScoreOf_bounds d pool' st'
  obtain ⟨hworst, hworstMax, -⟩ := h.worst
  have hsound := h.data
  rw [hdata] at hsound
  obtain ⟨hn, hm, hx, hd, -, hsum⟩ := hsound
  have hold := h.settling
  rw [Entry.unsettled, hdata] at hold
  rw [Entry.addObservation_eq hw]
  exact
    { h with
      data := ⟨hn, hm, hx, hd, hlife ▸ satAdd48_le _ _, hlen.trans hsum⟩
      raw := satAdd48_le _ _
      score := ⟨hpos, hmax⟩
      unsettled := fun hu => hunsettled (by simpa [Entry.unsettled] using hu)
      worst := ⟨Nat.le_min.2 ⟨hworst, hpos⟩, Nat.le_trans (Nat.min_le_left ..) hworstMax, Nat.min_le_right ..⟩
      settling := by
        simp only [nextVerdict_eq_settling_iff, hold, Entry.unsettled, hsettled]
        cases st.settled <;> simp
      held := fun hheld => (urgent_of_nextVerdict_held hheld).elim h.held fun hc => hc
      runtimeTags := fun hk => by simp [Entry.kind] at hk }

theorem Entry.addObservation_records (hdata : e.data = .ratio d st) (free errors exposure : Nat) (pool : List EpochRecord) :
    (e.addObservation free d st errors exposure pool).2.records.Perm e.records := by
  have hrec : e.records = st.closed ++ st.opened :: st.spares := by rw [Entry.records, hdata]
  rw [hrec]
  exact (closeEpoch_window d (addCounts free pool st.opened errors exposure)
    { st with lifetime := satAdd48 st.lifetime exposure }).1

end

end Sys2Proof.Machine
end

section
/-!
SUPPORT. Every step keeps the table, its entries and the epoch pool sound together (R1, R34, R41): the records that the entries hold
are, up to their order, those held before, but for the ones that DEFINE takes and RETIRE frees.
-/
namespace Sys2Proof.Machine

/-! ### Table, entries and pool together -/

/-- R1, R3, R34, R41: the table, its entries and the pool are sound. -/
structure Stocked (s : State) : Prop where
  table : TableSound s
  entries : EntriesSound s
  pool : PoolSound s

theorem Stocked.of_eq {s t : State} (h : Stocked s) (htable : t.table = s.table) (hpool : t.pool = s.pool) : Stocked t := by
  obtain ⟨⟨hlen, hsorted, hids⟩, hentries, hpl, hnodup, hlt, hfree, hcounts⟩ := h
  exact ⟨by rw [TableSound, htable]; exact ⟨hlen, hsorted, hids⟩, by rw [EntriesSound, htable]; exact hentries,
    by rw [PoolSound, htable, hpool]; exact ⟨hpl, hnodup, hlt, hfree, hcounts⟩⟩

/-- R54, R56: soundness does not look at overrides. -/
theorem stocked_dropOverride_iff {s t : State} (htable : t.table = s.table.map Entry.dropOverride) (hpool : t.pool = s.pool) :
    Stocked t ↔ Stocked s := by
  have htab : TableSound t ↔ TableSound s := by
    rw [TableSound, TableSound, htable, List.length_map, List.pairwise_map, List.forall_mem_map]
    rfl
  have hent : EntriesSound t ↔ EntriesSound s := by
    rw [EntriesSound, EntriesSound, htable, List.forall_mem_map]
    exact forall₂_congr fun e _ => e.dropOverride_sound_iff
  have hpl : PoolSound t ↔ PoolSound s := by
    rw [PoolSound, PoolSound, htable, hpool]
    simp only [recordFree, heldRecords_dropOverride]
  exact ⟨fun h => ⟨htab.1 h.table, hent.1 h.entries, hpl.1 h.pool⟩, fun h => ⟨htab.2 h.table, hent.2 h.entries, hpl.2 h.pool⟩⟩

/-- R155: where the table stood but for overrides, all stays sound. -/
theorem TableStands.stocked {s t : State} (h : TableStands s t) (hs : Stocked s) : Stocked t := by
  have hdrop : Stocked { s with table := s.table.map Entry.dropOverride } ↔ Stocked s := stocked_dropOverride_iff rfl rfl
  exact (stocked_dropOverride_iff (s := t) (t := { s with table := s.table.map Entry.dropOverride })
    h.table.symm h.pool.symm).1 (hdrop.2 hs)

/-- A step from `s` to `t` that keeps table, entries and pool sound together. -/
def StockKept (s t : State) : Prop := Stocked s → Stocked t

theorem StockKept.refl (s : State) : StockKept s s := id

theorem StockKept.trans {s t u : State} (h : StockKept s t) (h' : StockKept t u) : StockKept s u := h' ∘ h

theorem TableStands.stockKept {s t : State} (h : TableStands s t) : StockKept s t := h.stocked

theorem stockKept_of_eq {s t : State} (htable : t.table = s.table) (hpool : t.pool = s.pool) : StockKept s t :=
  fun h => h.of_eq htable hpool

/-! ### The held records (R41) -/

theorem heldRecords_perm {table table' : List Entry} (h : table.Perm table') :
    (heldRecords table).Perm (heldRecords table') := h.flatMap_right _

theorem insertEntry_perm (e : Entry) (table : List Entry) : (insertEntry e table).Perm (e :: table) := by
  induction table with
  | nil => exact .refl _
  | cons x xs ih =>
    unfold insertEntry
    split
    · exact .refl _
    · exact (ih.cons x).trans (.swap e x xs)

theorem removeEntry_notMem {table : List Entry} {id : Nat} (h : id ∉ table.map Entry.id) : removeEntry table id = table := by
  rw [removeEntry, List.filter_eq_self]
  intro x hx
  exact decide_eq_true fun hid => h (hid ▸ List.mem_map_of_mem hx)

/-- An entry of the table between the others, which no other id equals. -/
theorem split_of_mem {table : List Entry} {e : Entry} (hids : (table.map Entry.id).Nodup) (he : e ∈ table) :
    ∃ before after, table = before ++ e :: after ∧ removeEntry table e.id = before ++ after := by
  obtain ⟨before, after, rfl⟩ := List.append_of_mem he
  refine ⟨before, after, rfl, ?_⟩
  rw [List.map_append, List.map_cons, List.perm_middle.nodup_iff, List.nodup_cons, List.mem_append, not_or] at hids
  obtain ⟨⟨hbefore, hafter⟩, -⟩ := hids
  have hsplit : removeEntry (before ++ e :: after) e.id = removeEntry before e.id ++ removeEntry after e.id := by
    simp [removeEntry]
  rw [hsplit, removeEntry_notMem hbefore, removeEntry_notMem hafter]

/-- R1, R19: the table is the entry and what is left without it. -/
theorem removeEntry_perm {table : List Entry} {e : Entry} (hids : (table.map Entry.id).Nodup) (he : e ∈ table) :
    table.Perm (e :: removeEntry table e.id) := by
  obtain ⟨before, after, htable, hremove⟩ := split_of_mem hids he
  rw [hremove, htable]
  exact List.perm_middle

theorem putEntry_perm {table : List Entry} {e e' : Entry} (hids : (table.map Entry.id).Nodup) (he : e ∈ table)
    (hid : e'.id = e.id) : (putEntry table e').Perm (e' :: removeEntry table e.id) := by
  obtain ⟨before, after, htable, hremove⟩ := split_of_mem hids he
  rw [hremove, htable, putEntry_append_cons hid (htable ▸ hids)]
  exact List.perm_middle

theorem heldRecords_cons (e : Entry) (table : List Entry) : heldRecords (e :: table) = e.records ++ heldRecords table := rfl

/-- R41: an entry that keeps its records, in some order, keeps the held ones. -/
theorem heldRecords_putEntry {table : List Entry} {e e' : Entry} (hids : (table.map Entry.id).Nodup) (he : e ∈ table)
    (hid : e'.id = e.id) (hrec : e'.records.Perm e.records) : (heldRecords (putEntry table e')).Perm (heldRecords table) :=
  calc (heldRecords (putEntry table e')).Perm (e'.records ++ heldRecords (removeEntry table e.id)) :=
        heldRecords_perm (putEntry_perm hids he hid)
    _ |>.Perm (e.records ++ heldRecords (removeEntry table e.id)) := hrec.append_right _
    _ |>.Perm (heldRecords table) := (heldRecords_perm (removeEntry_perm hids he)).symm

theorem recordFree_iff {table : List Entry} {n : Nat} : recordFree table n = true ↔ n ∉ heldRecords table := by
  simp [recordFree]

/-! ### The counts of the pool (R34) -/

/-- R34: the counts of a record lie in their ranges. -/
def EpochRecord.InRange (r : EpochRecord) : Prop := r.errors ≤ r.exposure ∧ r.exposure ≤ Config.max32

theorem EpochRecord.zero_inRange : EpochRecord.zero.InRange := ⟨Nat.le_refl _, Nat.zero_le _⟩

/-- Of the pool, the records with the given numbers alone were changed, and within their ranges. -/
structure PoolEdited (ns : List Nat) (pool pool' : List EpochRecord) : Prop where
  length : pool'.length = pool.length
  others : ∀ n, n ∉ ns → recordAt pool' n = recordAt pool n
  inRange : (∀ r ∈ pool, r.InRange) → ∀ r ∈ pool', r.InRange

theorem PoolEdited.refl (ns : List Nat) (pool : List EpochRecord) : PoolEdited ns pool pool :=
  ⟨rfl, fun _ _ => rfl, id⟩

theorem PoolEdited.trans {ns : List Nat} {pool pool' pool'' : List EpochRecord} (h : PoolEdited ns pool pool')
    (h' : PoolEdited ns pool' pool'') : PoolEdited ns pool pool'' :=
  ⟨h'.length.trans h.length, fun n hn => (h'.others n hn).trans (h.others n hn), h'.inRange ∘ h.inRange⟩

theorem poolEdited_set {ns : List Nat} (pool : List EpochRecord) {n : Nat} {r : EpochRecord} (hn : n ∈ ns)
    (hr : (∀ r ∈ pool, r.InRange) → r.InRange) : PoolEdited ns pool (pool.set n r) where
  length := List.length_set
  others := fun m hm => by
    have hne : ¬ (m = n ∧ n < pool.length) := fun h => hm (h.1 ▸ hn)
    rw [recordAt_set, if_neg hne]
  inRange := fun h x hx => (List.mem_or_eq_of_mem_set hx).elim (h x) fun hxr => hxr ▸ hr h

theorem recordAt_inRange {pool : List EpochRecord} (h : ∀ r ∈ pool, r.InRange) (n : Nat) : (recordAt pool n).InRange := by
  rw [recordAt, List.getD_eq_getElem?_getD]
  cases hn : pool[n]? with
  | none => exact EpochRecord.zero_inRange
  | some r => exact h r (List.mem_of_getElem? hn)

/-- R43: records are cleared. -/
theorem poolEdited_clearRecords (pool : List EpochRecord) (ns : List Nat) : PoolEdited ns pool (clearRecords pool ns) := by
  have hall : ∀ ms : List Nat, ms ⊆ ns → PoolEdited ns pool (clearRecords pool ms) := fun ms hms =>
    List.foldlRecOn ms (fun acc n => acc.set n .zero) (motive := PoolEdited ns pool) (.refl ns pool) fun acc hacc n hn =>
      hacc.trans (poolEdited_set acc (hms hn) fun _ => EpochRecord.zero_inRange)
  exact hall ns (List.Subset.refl ns)

theorem poolEdited_closeEpoch (d : RatioDef) (pool : List EpochRecord) (st : RatioState) :
    PoolEdited (st.closed ++ st.opened :: st.spares) pool (closeEpoch d pool st).1 := by
  unfold closeEpoch
  split
  · exact .refl _ _
  · split
    · split
      · exact .refl _ _
      · next x xs hs => exact poolEdited_set pool (by simp [hs]) fun _ => EpochRecord.zero_inRange
    · split
      · exact .refl _ _
      · next x xs hs => exact poolEdited_set pool (by simp [hs]) fun _ => EpochRecord.zero_inRange

/-- R31 to R34: an observation changes records of its entry alone. -/
theorem poolEdited_addObservation {d : RatioDef} {st : RatioState} {errors exposure : Nat} (herr : errors ≤ exposure)
    (hexp : 1 ≤ exposure) (free : Nat) (pool : List EpochRecord) (e : Entry) :
    PoolEdited (st.closed ++ st.opened :: st.spares) pool (e.addObservation free d st errors exposure pool).1 := by
  have hadd : PoolEdited (st.closed ++ st.opened :: st.spares) pool (addCounts free pool st.opened errors exposure) := by
    refine poolEdited_set pool (by simp) fun h => ?_
    obtain ⟨hle, -, hmax⟩ := EpochRecord.add_bounds (recordAt_inRange h st.opened).1 herr hexp free st.opened
    exact ⟨hle, hmax⟩
  exact hadd.trans (poolEdited_closeEpoch d _ { st with lifetime := satAdd48 st.lifetime exposure })

/-! ### Changes of one entry -/

section
variable {s t : State} {e e' : Entry}

/-- R1, R41: an entry is replaced by a sound one that holds the same records, in some order. -/
theorem Stocked.putEntry (hs : Stocked s) (he : e ∈ s.table) (hid : e'.id = e.id) (hsound : e'.Sound)
    (hrec : e'.records.Perm e.records) (hpool : PoolEdited e.records s.pool t.pool)
    (htable : t.table = putEntry s.table e') : Stocked t := by
  obtain ⟨hlen, hsorted, hids⟩ := hs.table
  obtain ⟨hpl, hnodup, hlt, hfree, hcounts⟩ := hs.pool
  have hheld := heldRecords_putEntry hs.table.ids_nodup he hid hrec
  have hmem : ∀ x ∈ Machine.putEntry s.table e', x = e' ∨ x ∈ s.table := fun x hx => mem_putEntry hx
  refine ⟨⟨?_, ?_, fun x hx => ?_⟩, fun x hx => ?_, hpool.length.trans hpl, ?_, fun n hn => ?_, fun n hn => ?_,
    hpool.inRange hcounts⟩
  · rw [htable, putEntry_length]
    exact hlen
  · rw [htable, ← List.pairwise_map (f := Entry.id) (R := (· < ·)), putEntry_ids, List.pairwise_map]
    exact hsorted
  · rcases hmem x (htable ▸ hx) with rfl | hx
    · exact hid ▸ hids e he
    · exact hids x hx
  · rcases hmem x (htable ▸ hx) with rfl | hx
    · exact hsound
    · exact hs.entries x hx
  · rw [htable]
    exact hheld.nodup_iff.2 hnodup
  · rw [htable, hheld.mem_iff] at hn
    exact hlt n hn
  · rw [recordFree_iff, htable, hheld.mem_iff] at hn
    rw [hpool.others n fun h => hn (mem_heldRecords.2 ⟨e, he, h⟩)]
    exact hfree n (recordFree_iff.2 hn)

/-- R58: the same through `State.replaceEntry`, which hands on the event. -/
theorem Stocked.replaceEntry (hs : Stocked s) (he : e ∈ s.table) (hid : e'.id = e.id) (hsound : e'.Sound)
    (hrec : e'.records.Perm e.records) {pool : List EpochRecord} (hpool : PoolEdited e.records s.pool pool) :
    Stocked (State.replaceEntry { s with pool := pool } e e') :=
  hs.putEntry he hid hsound hrec (by rwa [State.replaceEntry_pool]) (State.replaceEntry_table ..)

/-- R16, R42: a new entry takes free records. -/
theorem Stocked.insertEntry (hs : Stocked s) (hroom : s.table.length < Config.tableSize)
    (hnew : findEntry s.table e.id = none) (hid : 1 ≤ e.id ∧ e.id ≤ 254) (hsound : e.Sound) (hnodup : e.records.Nodup)
    (hfresh : ∀ n ∈ e.records, n ∈ freeRecords s.table) (htable : t.table = insertEntry e s.table)
    (hpool : t.pool = s.pool) : Stocked t := by
  obtain ⟨hlen, hsorted, hids⟩ := hs.table
  obtain ⟨hpl, hheldNodup, hlt, hfree, hcounts⟩ := hs.pool
  have hheld : (heldRecords (Machine.insertEntry e s.table)).Perm (e.records ++ heldRecords s.table) :=
    heldRecords_perm (insertEntry_perm e s.table)
  refine ⟨⟨?_, ?_, fun x hx => ?_⟩, fun x hx => ?_, by rwa [hpool], ?_, fun n hn => ?_, fun n hn => ?_, by rwa [hpool]⟩
  · rw [htable, insertEntry_length]
    exact hroom
  · rw [htable]
    exact insertEntry_pairwise hsorted (findEntry_none hnew)
  · rcases mem_insertEntry.1 (htable ▸ hx) with rfl | hx
    · exact hid
    · exact hids x hx
  · rcases mem_insertEntry.1 (htable ▸ hx) with rfl | hx
    · exact hsound
    · exact hs.entries x hx
  · rw [htable, hheld.nodup_iff, List.nodup_append]
    exact ⟨hnodup, hheldNodup, fun a ha b hb hab => (mem_freeRecords.1 (hfresh a ha)).2 (hab ▸ hb)⟩
  · rw [htable, hheld.mem_iff, List.mem_append] at hn
    exact hn.elim (fun hn => (mem_freeRecords.1 (hfresh n hn)).1) (hlt n)
  · rw [recordFree_iff, htable, hheld.mem_iff, List.mem_append, not_or] at hn
    rw [hpool]
    exact hfree n (recordFree_iff.2 hn.2)

/-- R19, R43: of a sound pool, the records of a removed entry are free. -/
theorem recordFree_removeEntry (htable : TableSound s) (hpool : PoolSound s) (he : e ∈ s.table) {n : Nat}
    (hn : n ∈ e.records) : recordFree (removeEntry s.table e.id) n = true := by
  obtain ⟨-, hnodup, -⟩ := hpool
  rw [(heldRecords_perm (removeEntry_perm htable.ids_nodup he)).nodup_iff, heldRecords_cons, List.nodup_append] at hnodup
  obtain ⟨-, -, hdisjoint⟩ := hnodup
  exact recordFree_iff.2 fun h => hdisjoint n hn n h rfl

/-- R19, R43: an entry is removed and its records are cleared. -/
theorem Stocked.removeEntry (hs : Stocked s) (he : e ∈ s.table) (htable : t.table = removeEntry s.table e.id)
    (hpool : t.pool = clearRecords s.pool e.records) : Stocked t := by
  obtain ⟨hlen, hsorted, hids⟩ := hs.table
  obtain ⟨hpl, hnodup, hlt, hfree, hcounts⟩ := hs.pool
  have hedited := poolEdited_clearRecords s.pool e.records
  have hheld : (heldRecords s.table).Perm (e.records ++ heldRecords (Machine.removeEntry s.table e.id)) :=
    heldRecords_perm (removeEntry_perm hs.table.ids_nodup he)
  have hsub : t.table.Sublist s.table := htable ▸ List.filter_sublist
  refine ⟨⟨Nat.le_trans hsub.length_le hlen, hsorted.sublist hsub, fun x hx => hids x (hsub.subset hx)⟩,
    fun x hx => hs.entries x (hsub.subset hx), ?_, ?_, fun n hn => ?_, fun n hn => ?_, ?_⟩
  · rw [hpool, hedited.length]
    exact hpl
  · rw [htable]
    exact ((hheld.nodup_iff.1 hnodup).sublist (List.sublist_append_right ..))
  · exact hlt n (hheld.mem_iff.2 (List.mem_append_right _ (htable ▸ hn)))
  · rw [recordFree_iff, htable] at hn
    rw [hpool, recordAt_clearRecords]
    split
    · rfl
    · next hne =>
      refine hfree n (recordFree_iff.2 fun h => ?_)
      exact (List.mem_append.1 (hheld.mem_iff.1 h)).elim hne hn
  · rw [hpool]
    exact hedited.inRange hcounts

end

/-! ### Requests on the table (chapters 1 and 3) -/

/-- R42: a new entry holds free records, each once. -/
theorem newEntry_records {table : List Entry} {id : Nat} {d : Definition}
    (hfree : d.kind.recordsNeeded ≤ (freeRecords table).length) :
    (newEntry table id d).records = (freeRecords table).take d.kind.recordsNeeded := by
  cases hk : d.kind with
  | tally b => simp [newEntry, Entry.records, hk, KindDef.fresh, KindDef.recordsNeeded]
  | runtime g b => simp [newEntry, Entry.records, hk, KindDef.fresh, KindDef.recordsNeeded]
  | ratio rd =>
    rw [hk] at hfree
    have hlist := headD_cons_tail_take hfree
    simpa [newEntry, Entry.records, hk, KindDef.fresh, KindDef.recordsNeeded] using hlist

theorem stockKept_serviceDefine (id : Nat) (f : Fields) (s : State) : StockKept s (s.serviceDefine id f).1 := by
  unfold State.serviceDefine
  split
  · exact .refl s
  · next d hd =>
    split
    · exact .refl s
    · next hnew =>
      split
      · exact .refl s
      · next hroom =>
        split
        · exact .refl s
        · next hfree =>
          rw [Option.ite_none_right_eq_some] at hd
          obtain ⟨hid, hd⟩ := hd
          have hneed := Nat.not_lt.1 hfree
          have hrec := newEntry_records (id := id) hneed
          have hsub : (newEntry s.table id d).records.Sublist (freeRecords s.table) := hrec ▸ List.take_sublist ..
          have hnone : findEntry s.table id = none := by simpa using hnew
          exact fun hs => hs.insertEntry (e := (newEntry s.table id d).evaluate false) (Nat.not_le.1 hroom) hnone hid
            (newEntry_sound (definitionOf_eq_some.1 hd) hneed).evaluate
            (((freeRecords_pairwise s.table).imp Nat.ne_of_lt).sublist hsub) (fun n hn => hsub.subset hn)
            (by simp) (by simp)

theorem stockKept_serviceAmend (id : Nat) (f : Fields) (s : State) : StockKept s (s.serviceAmend id f).1 := by
  unfold State.serviceAmend
  split
  · exact .refl s
  · next e hfind =>
    split
    · exact .refl s
    · split
      · exact .refl s
      · next hok =>
        split
        · have he := findEntry_mem hfind
          have hok : f.amendOk e.kind = true := by simpa using hok
          refine fun hs => (hs.replaceEntry (pool := s.pool) he (e.amend_id f) ((hs.entries e he).amend hok) ?_
            (.refl _ _)).of_eq rfl rfl
          rw [e.amend_records f]
        · exact .refl s

theorem stockKept_serviceRetire (id : Nat) (s : State) : StockKept s (s.serviceRetire id).1 := by
  unfold State.serviceRetire
  split
  · exact .refl s
  · next e hfind =>
    have hid := findEntry_id hfind
    subst hid
    exact fun hs => hs.removeEntry (findEntry_mem hfind) rfl rfl

theorem stockKept_serviceRenew (id : Nat) (s : State) : StockKept s (s.serviceRenew id).1 := by
  unfold State.serviceRenew
  split
  · exact .refl s
  · next e hfind =>
    intro hs
    have he := findEntry_mem hfind
    obtain ⟨-, hnodup, hlt, -⟩ := hs.pool
    have hrecords := records_nodup hnodup he
    have hrange : ∀ n ∈ e.records, n < Config.poolSize := fun n hn => hlt n (mem_heldRecords.2 ⟨e, he, hn⟩)
    exact (hs.replaceEntry he e.renew_id ((hs.entries e he).renew hrecords hrange) (e.renew_records_perm hrecords hrange)
      (poolEdited_clearRecords s.pool e.records)).of_eq rfl rfl

theorem stockKept_serviceClear (id : Nat) (s : State) : StockKept s (s.serviceClear id).1 := by
  unfold State.serviceClear
  split
  · exact .refl s
  · next e hfind =>
    have he := findEntry_mem hfind
    split
    · next hheld =>
      exact fun hs => (hs.replaceEntry (pool := s.pool) he e.clear_id ((hs.entries e he).clear hheld) (.refl _)
        (.refl _ _)).of_eq rfl rfl
    all_goals exact .refl s

theorem stockKept_serviceOverride (id value : Nat) (s : State) : StockKept s (s.serviceOverride id value).1 :=
  fun hs => (tableStands_serviceOverride hs.table.ids_nodup id value).stocked hs

/-! ### REPORT (chapter 4) -/

/-- R68: the tag and the counts of an item lie in their ranges, whatever the kind of its entry. -/
structure Item.InRange (i : Item) : Prop where
  tag : ∀ t ∈ i.tag, 1 ≤ t ∧ t ≤ Config.max32
  counts : ∀ errors exposure, i.value = .ratio errors exposure → 1 ≤ exposure ∧ errors ≤ exposure

theorem stockKept_applyItem (s : State) {i : Item} (hi : i.InRange) : StockKept s (s.applyItem i).1 := by
  intro hs
  cases hfind : findEntry s.table i.id with
  | none =>
    rw [State.applyItem, hfind]
    exact hs
  | some e =>
    have he := findEntry_mem hfind
    cases hany : i.tag.any e.tags.contains with
    | true =>
      simp only [State.applyItem, hfind, if_pos hany]
      exact hs
    | false =>
      have hnew := (i.tag_new_iff e.tags).1 hany
      cases hdata : e.data <;> cases hvalue : i.value
      case tally.tally budget n =>
        rw [State.applyItem_tally hfind hdata hvalue hnew]
        have hkind : e.kind = .tally := by rw [Entry.kind, hdata]
        have htagged := (hs.entries e he).enterTag (by simp [hkind]) hnew hi.tag
        have hkind' : (e.enterTag i.tag).kind ≠ .ratio := by simp [Entry.kind, hdata]
        refine hs.replaceEntry (pool := s.pool) he (by simp) (htagged.addUnits hkind' budget n) ?_ (.refl _ _)
        simp [Entry.records, hdata]
      case ratio.ratio d st errors exposure =>
        rw [State.applyItem_ratio hfind hdata hvalue hnew rfl]
        obtain ⟨hexp, herr⟩ := hi.counts errors exposure hvalue
        have hkind : e.kind = .ratio := by rw [Entry.kind, hdata]
        have htagged := (hs.entries e he).enterTag (by simp [hkind]) hnew hi.tag
        have hdata' : (e.enterTag i.tag).data = .ratio d st := by rw [Entry.enterTag_data, hdata]
        have hrec : (e.enterTag i.tag).records = e.records := by rw [Entry.records, Entry.records, hdata', hdata]
        have hwindow : e.records = st.closed ++ st.opened :: st.spares := by rw [Entry.records, hdata]
        refine hs.replaceEntry he (by simp) (htagged.addObservation hdata' s.freeIndex errors exposure s.pool) ?_
          (hwindow ▸ poolEdited_addObservation herr hexp s.freeIndex s.pool (e.enterTag i.tag))
        exact hrec ▸ Entry.addObservation_records hdata' s.freeIndex errors exposure s.pool
      all_goals
        simp only [State.applyItem, hfind, hany, hdata, hvalue]
        exact hs

theorem stockKept_applyItems (s : State) {items : List Item} (hitems : ∀ i ∈ items, i.InRange) :
    StockKept s (s.applyItems items).1 := by
  induction items generalizing s with
  | nil => exact .refl s
  | cons i is ih =>
    obtain ⟨hi, his⟩ := List.forall_mem_cons.1 hitems
    exact (stockKept_applyItem s hi).trans (ih _ his)

theorem failure_none_of_batch {table : List Entry} {p : Port} {items : List Item} {first : Nat}
    (h : batchFailure table p first items = none) : ∀ i ∈ items, i.failure table p = none := by
  induction items generalizing first with
  | nil => exact fun _ hi => nomatch hi
  | cons i is ih =>
    rw [batchFailure] at h
    split at h
    · cases h
    · next hi => exact List.forall_mem_cons.2 ⟨hi, ih h⟩

/-- R68: an item that passes, with a tag of 32 bits, is in range. -/
theorem Item.inRange_of_passes {i : Item} {table : List Entry} {p : Port} (h : i.failure table p = none)
    (htag : ∀ t ∈ i.tag, t ≤ Config.max32) : i.InRange := by
  cases hfind : findEntry table i.id with
  | none =>
    rw [Item.failure_noEntry p hfind] at h
    cases h
  | some e =>
    have hrange := Item.inRange_of_failure_none h hfind
    refine ⟨fun t ht => ⟨?_, htag t ht⟩, fun errors exposure hv => Item.inRange_ratio hrange hv⟩
    have hne : i.tag ≠ some 0 := by
      unfold Item.inRange at hrange
      exact of_decide_eq_true (Bool.and_eq_true_iff.1 hrange).1
    exact Nat.one_le_iff_ne_zero.2 fun h0 => hne (h0 ▸ ht)

/-! ### The tags of a REPORT body (R65, R185) -/

theorem takeField_lt {present : Bool} {w : Nat} {bs rest : List Byte} {v : Option Nat}
    (h : takeField present w bs = some (v, rest)) : ∀ n ∈ v, n < 256 ^ w := by
  unfold takeField takeNumber at h
  cases present with
  | false =>
    cases h
    exact fun _ hn => nomatch hn
  | true =>
    simp only [if_true, Option.map_eq_some_iff, Option.ite_none_left_eq_some] at h
    obtain ⟨x, ⟨hlen, ⟨⟩⟩, ⟨⟩⟩ := h
    rintro n ⟨⟩
    have hlt := leNat_lt (bs.take w)
    rwa [List.length_take, Nat.min_eq_left (Nat.not_lt.1 hlen)] at hlt

theorem takeItem_tag_le {bs rest : List Byte} {i : Item} (h : takeItem bs = some (i, rest)) :
    ∀ t ∈ i.tag, t ≤ Config.max32 := by
  unfold takeItem at h
  split at h
  · next id flags bs =>
    simp only [Option.ite_none_left_eq_some, Option.bind_eq_bind, Option.bind_eq_some_iff] at h
    obtain ⟨-, ⟨tag, bs'⟩, htag, h⟩ := h
    have hlt := takeField_lt htag
    split at h
    · simp only [Option.bind_eq_some_iff] at h
      obtain ⟨_, -, _, -, ⟨⟩⟩ := h
      exact fun t ht => Nat.le_of_lt_succ (hlt t ht)
    · simp only [Option.bind_eq_some_iff] at h
      obtain ⟨_, -, ⟨⟩⟩ := h
      exact fun t ht => Nat.le_of_lt_succ (hlt t ht)
  · cases h

theorem takeItems_tag_le {n : Nat} {bs : List Byte} {items : List Item} (h : takeItems n bs = some items) :
    ∀ i ∈ items, ∀ t ∈ i.tag, t ≤ Config.max32 := by
  induction n generalizing bs items with
  | zero =>
    cases bs with
    | nil =>
      cases h
      exact fun _ hi => nomatch hi
    | cons b bs => cases h
  | succ n ih =>
    simp only [takeItems, Option.bind_eq_bind, Option.bind_eq_some_iff] at h
    obtain ⟨⟨i, bs'⟩, hi, is, his, ⟨⟩⟩ := h
    exact List.forall_mem_cons.2 ⟨takeItem_tag_le hi, ih his⟩

theorem bodyItems_tag_le {body : List Byte} {items : List Item} (h : bodyItems body = some items) :
    ∀ i ∈ items, ∀ t ∈ i.tag, t ≤ Config.max32 := by
  unfold bodyItems at h
  split at h
  · rw [Option.ite_none_left_eq_some] at h
    exact takeItems_tag_le h.2
  · cases h

theorem stockKept_serviceReport (p : Port) {body : List Byte} {items : List Item} (hbody : bodyItems body = some items)
    (s : State) : StockKept s (s.serviceReport p items).1 := by
  unfold State.serviceReport
  split
  · exact .refl s
  · next hpass =>
    have hitems : ∀ i ∈ items, i.InRange := fun i hi =>
      Item.inRange_of_passes (failure_none_of_batch hpass i hi) (bodyItems_tag_le hbody i hi)
    exact fun hs => ((stockKept_applyItems s hitems) hs).of_eq rfl rfl

/-! ### The accrual job (R78) -/

theorem stockKept_visits (a : Accrual) (s : State) : StockKept s (s.table.foldl (State.visit a) s) := by
  intro hs
  have htable := State.visits_table a (s := s) (visited := []) rfl hs.table.ids_nodup
  have hpool : (s.table.foldl (State.visit a) s).pool = s.pool := by rw [State.visits_eq]
  have hheld : heldRecords (s.table.map (Entry.accrue a)) = heldRecords s.table := by
    rw [heldRecords, heldRecords, List.flatMap_map]
    exact List.flatMap_congr fun e _ => e.accrue_records a
  obtain ⟨hlen, hsorted, hids⟩ := hs.table
  obtain ⟨hpl, hnodup, hlt, hfree, hcounts⟩ := hs.pool
  rw [List.nil_append] at htable
  refine ⟨?_, ?_, ?_⟩
  · rw [TableSound, htable, List.length_map, List.pairwise_map, List.forall_mem_map]
    simp only [Entry.accrue_id]
    exact ⟨hlen, hsorted, hids⟩
  · rw [EntriesSound, htable, List.forall_mem_map]
    exact fun e he => (hs.entries e he).accrue a
  · rw [PoolSound, htable, hpool]
    simp only [recordFree, hheld]
    exact ⟨hpl, hnodup, hlt, hfree, hcounts⟩

theorem stockKept_accrualJob (s : State) : ∀ t, execAccrualJob s = .next t → StockKept s t := by
  rintro _ ⟨⟩
  split
  · dsimp only
    split
    · have hvisits := stockKept_visits s.takeJob.accrual s.takeJob
      exact fun hs => (hvisits (hs.of_eq rfl rfl)).of_eq rfl rfl
    all_goals exact stockKept_of_eq rfl rfl
  all_goals exact .refl s

end Sys2Proof.Machine
end

section
/-!
SUPPORT. What start-up loads is sound (R174, R176), and with it every command and every step keeps table, entries and pool sound.
-/
namespace Sys2Proof.Machine

/-! ### The fields of an image (R174, R187) -/

theorem fieldAt_lt (rec : List Byte) (offset w : Nat) : fieldAt rec offset w < 256 ^ w :=
  Nat.lt_of_lt_of_le (leNat_lt _) (Nat.pow_le_pow_right (by decide) (List.length_take_le ..))

/-- R4, R30, R174: the kind data of an entry record lie in their ranges. -/
theorem recordData_sound {rec : List Byte} {f : Fields} {kd : KindDef} {data : KindData} (hkind : kd.GivenBy f)
    (h : recordData rec kd = some data) : data.Sound := by
  cases kd with
  | tally b =>
    obtain ⟨-, -, -, -, hb⟩ := hkind
    rw [recordData, Option.ite_none_right_eq_some] at h
    obtain ⟨-, ⟨⟩⟩ := h
    exact hb
  | runtime g b =>
    obtain ⟨-, -, -, -, hb⟩ := hkind
    rw [recordData, Option.ite_none_right_eq_some] at h
    obtain ⟨-, ⟨⟩⟩ := h
    exact hb
  | ratio d =>
    obtain ⟨-, -, -, ⟨-, hn⟩, ⟨-, hm⟩, ⟨-, hx⟩, ⟨-, hd⟩⟩ := hkind
    simp only [recordData, Option.ite_none_right_eq_some] at h
    obtain ⟨⟨hc, hlen⟩, ⟨⟩⟩ := h
    refine ⟨hn, hm, hx, hd, Nat.le_of_lt_succ (fieldAt_lt rec 28 6), ?_⟩
    rw [List.length_take, List.length_tail, List.length_drop, hlen]
    omega

/-- R174: the records that an entry record names are records of the pool. -/
theorem recordData_records {rec : List Byte} {kd : KindDef} {data : KindData} (h : recordData rec kd = some data)
    {e : Entry} (he : e.data = data) : ∀ n ∈ e.records, n < Config.poolSize := by
  have hnumbers : ∀ n ∈ recordNumbers rec, n < Config.poolSize := by
    intro n hn
    obtain ⟨b, -, rfl⟩ := List.mem_map.1 hn
    exact b.isLt
  unfold Entry.records
  rw [he]
  cases kd with
  | tally b =>
    rw [recordData, Option.ite_none_right_eq_some] at h
    obtain ⟨-, ⟨⟩⟩ := h
    exact fun _ hn => nomatch hn
  | runtime g b =>
    rw [recordData, Option.ite_none_right_eq_some] at h
    obtain ⟨-, ⟨⟩⟩ := h
    exact fun _ hn => nomatch hn
  | ratio d =>
    simp only [recordData, Option.ite_none_right_eq_some] at h
    obtain ⟨⟨hc, hlen⟩, ⟨⟩⟩ := h
    generalize hns : (recordNumbers rec).take (d.depth + 1) = ns at hlen
    have hall : ns.take (fieldAt rec 54 1) ++ (ns.drop (fieldAt rec 54 1)).headD 0 ::
        (ns.drop (fieldAt rec 54 1)).tail = ns := by
      cases hdrop : ns.drop (fieldAt rec 54 1) with
      | nil =>
        have hle := List.drop_eq_nil_iff.1 hdrop
        omega
      | cons x xs =>
        rw [List.headD_cons, List.tail_cons, ← hdrop]
        exact List.take_append_drop ..
    simp only [hall]
    intro n hn
    exact hnumbers n ((List.take_sublist ..).subset (hns ▸ hn))

/-- R70, R174: the tags of an image lie in their ranges. -/
theorem tagHistory_range (body : List Byte) (k : Nat) :
    (tagHistory body k).length ≤ Config.tagSize ∧ ∀ t ∈ tagHistory body k, 1 ≤ t ∧ t ≤ Config.max32 := by
  constructor
  · refine Nat.le_trans (List.takeWhile_sublist _).length_le ?_
    rw [List.length_map, List.length_range]
    exact Nat.le_refl _
  · intro t ht
    have hne : t ≠ 0 := by simpa using List.mem_takeWhile_imp ht
    obtain ⟨j, -, rfl⟩ := List.mem_map.1 ((List.takeWhile_sublist _).subset ht)
    exact ⟨Nat.one_le_iff_ne_zero.2 hne, Nat.le_of_lt_succ (fieldAt_lt body _ 4)⟩

theorem decide_beq_eq_true {p : Prop} [Decidable p] {b : Bool} : (decide p == b) = true ↔ (p ↔ b = true) := by
  rw [beq_iff_eq, Bool.eq_iff_iff, decide_eq_true_iff]

/-- R174: the rows of the content check on scores, verdicts and tags. -/
theorem Entry.contentOk_iff (e : Entry) : e.contentOk = true ↔
    (1 ≤ e.score ∧ e.score ≤ (if e.kind = .ratio then 200 else 100)) ∧ (e.unsettled = true → e.score = 100) ∧
      (1 ≤ e.worst ∧ e.worst ≤ 100 ∧ e.worst ≤ e.score) ∧ (e.computed = .settling ↔ e.unsettled = true) ∧
      (e.computed = .held → e.cls = .urgent) ∧ (e.kind = .runtime → e.tags = []) ∧ e.tags.Nodup := by
  simp only [Entry.contentOk, Bool.and_eq_true, Bool.or_eq_true, Bool.not_eq_true', decide_eq_true_eq,
    decide_beq_eq_true, List.isEmpty_iff, and_assoc, ne_eq, ← imp_iff_not_or, ← Bool.not_eq_true]

/-- R174: an entry that the content check passes is sound, and its id and its records are those of the table and the pool. -/
theorem recordEntry_sound {body : List Byte} {k : Nat} {e : Entry} (h : recordEntry body k = some e) :
    e.Sound ∧ (1 ≤ e.id ∧ e.id ≤ 254) ∧ ∀ n ∈ e.records, n < Config.poolSize := by
  simp only [recordEntry, Option.ite_none_left_eq_some, Option.bind_eq_bind, Option.bind_eq_some_iff,
    Option.ite_none_right_eq_some] at h
  obtain ⟨hid, d, hd, data, hdata, v, -, hcontent, he⟩ := h
  have hdef := definitionOf_eq_some.1 hd
  obtain ⟨hscore, hunsettled, hworst, hsettling, hheld, hruntime, hnodup⟩ := (Entry.contentOk_iff _).1 hcontent
  obtain ⟨hlen, htags⟩ := tagHistory_range body k
  cases he
  refine ⟨⟨recordData_sound hdef.kind hdata, hdef.trip.2, hdef.hyst.2, hdef.labelRange,
    Nat.le_of_lt_succ (fieldAt_lt _ 22 6), hscore, hunsettled, hworst, hsettling, hheld, ⟨hlen, hnodup, htags⟩, hruntime⟩,
    ?_, recordData_records hdata rfl⟩
  dsimp only
  omega

/-! ### A whole image (R174, R176) -/

theorem sortEntries_perm (es : List Entry) : (sortEntries es).Perm es := by
  induction es with
  | nil => exact .refl _
  | cons e es ih => exact (insertEntry_perm e _).trans (ih.cons e)

theorem sortEntries_pairwise {es : List Entry} (h : (es.map Entry.id).Nodup) :
    (sortEntries es).Pairwise fun x y => x.id < y.id := by
  induction es with
  | nil => exact List.Pairwise.nil
  | cons e es ih =>
    rw [List.map_cons, List.nodup_cons] at h
    obtain ⟨hnew, hrest⟩ := h
    refine insertEntry_pairwise (ih hrest) fun x hx hid => hnew ?_
    exact hid ▸ List.mem_map_of_mem ((sortEntries_perm es).mem_iff.1 hx)

theorem collect_length {xs : List (Option α)} {ys : List α} (h : collect xs = some ys) : ys.length = xs.length := by
  induction xs generalizing ys with
  | nil =>
    cases h
    rfl
  | cons x xs ih =>
    cases x with
    | none => cases h
    | some x =>
      obtain ⟨zs, hzs, rfl⟩ := Option.map_eq_some_iff.1 h
      rw [List.length_cons, List.length_cons, ih hzs]

/-- R174: the rows of the content check on the epoch records. -/
theorem poolOk_iff (table : List Entry) (pool : List EpochRecord) : poolOk table pool = true ↔
    (heldRecords table).Nodup ∧
      (∀ n, n < Config.poolSize → recordFree table n = true → recordAt pool n = .zero) ∧
      ∀ r ∈ pool, r.errors ≤ r.exposure := by
  simp only [poolOk, Bool.and_eq_true, decide_eq_true_eq, List.all_eq_true, List.mem_range, Bool.or_eq_true,
    Bool.not_eq_true', and_assoc, ← imp_iff_not_or, ← Bool.not_eq_true]

/-- R174, R176: what start-up loads. -/
theorem loadImage_cases {i : Image} {x : List Entry × List EpochRecord} (h : loadImage i = some x) :
    headerInterval i.header ≤ 1440 ∧ ∃ es : List Entry, es.length ≤ Config.tableSize ∧
      (∀ e ∈ es, ∃ k, recordEntry i.body k = some e) ∧ (es.map Entry.id).Nodup ∧ poolOk es (imagePool i.body) = true ∧
      x = (sortEntries es, imagePool i.body) := by
  simp only [loadImage, Option.ite_none_right_eq_some] at h
  obtain ⟨⟨hinterval, hcount, hused⟩, h⟩ := h
  cases hc : collect ((usedRecords i.body).map (recordEntry i.body)) with
  | none => simp [hc] at h
  | some es =>
    simp only [hc, Option.ite_none_right_eq_some, Option.some.injEq] at h
    obtain ⟨⟨hids, hpool⟩, rfl⟩ := h
    refine ⟨hinterval, es, ?_, fun e he => ?_, hids, hpool, rfl⟩
    · rw [collect_length hc, List.length_map, hused]
      exact hcount
    · obtain ⟨k, -, hk⟩ := List.mem_map.1 (collect_mem hc e he)
      exact ⟨k, hk⟩

theorem imagePool_length (body : List Byte) : (imagePool body).length = Config.poolSize := by simp [imagePool]

theorem recordAt_of_ge {pool : List EpochRecord} {n : Nat} (h : pool.length ≤ n) : recordAt pool n = .zero := by
  rw [recordAt, List.getD_eq_getElem?_getD, List.getElem?_eq_none h]
  rfl

/-- R174, R176: a loaded table with its pool is sound. -/
theorem stocked_of_loadImage {s : State} {i : Image} (h : loadImage i = some (s.table, s.pool)) : Stocked s := by
  obtain ⟨-, es, hlen, hentries, hids, hpool, heq⟩ := loadImage_cases h
  obtain ⟨htable, hpoolEq⟩ := Prod.mk.inj heq
  obtain ⟨hnodup, hfree, hcounts⟩ := (poolOk_iff _ _).1 hpool
  have hperm : s.table.Perm es := htable ▸ sortEntries_perm es
  have hheld := heldRecords_perm hperm
  have hmem : ∀ e ∈ s.table, e.Sound ∧ (1 ≤ e.id ∧ e.id ≤ 254) ∧ ∀ n ∈ e.records, n < Config.poolSize := by
    intro e he
    obtain ⟨k, hk⟩ := hentries e (hperm.mem_iff.1 he)
    exact recordEntry_sound hk
  refine ⟨⟨hperm.length_eq ▸ hlen, htable ▸ sortEntries_pairwise hids, fun e he => (hmem e he).2.1⟩,
    fun e he => (hmem e he).1, ?_, hheld.nodup_iff.2 hnodup, fun n hn => ?_, fun n hn => ?_, fun r hr => ?_⟩
  · rw [hpoolEq]
    exact imagePool_length i.body
  · obtain ⟨e, he, hn⟩ := mem_heldRecords.1 hn
    exact (hmem e he).2.2 n hn
  · rw [hpoolEq]
    by_cases hlt : n < Config.poolSize
    · refine hfree n hlt (recordFree_iff.2 fun hheldEs => ?_)
      exact recordFree_iff.1 hn (hheld.mem_iff.2 hheldEs)
    · exact recordAt_of_ge (by rw [imagePool_length]; exact Nat.not_lt.1 hlt)
  · rw [hpoolEq] at hr
    refine ⟨hcounts r hr, ?_⟩
    obtain ⟨n, -, rfl⟩ := List.mem_map.1 hr
    exact Nat.le_of_lt_succ (fieldAt_lt i.body _ 4)

/-- R2, R41: an empty table, with every record cleared. -/
theorem stocked_empty {s : State} (htable : s.table = []) (hpool : s.pool = List.replicate Config.poolSize .zero) :
    Stocked s := by
  have hzero : ∀ r ∈ s.pool, r = .zero := fun r hr => List.eq_of_mem_replicate (hpool ▸ hr)
  refine ⟨?_, ?_, ?_, ?_, ?_, fun n _ => ?_, fun r hr => hzero r hr ▸ EpochRecord.zero_inRange⟩
  · rw [TableSound, htable]
    exact ⟨Nat.zero_le _, List.Pairwise.nil, fun _ he => nomatch he⟩
  · rw [EntriesSound, htable]
    exact fun _ he => nomatch he
  · rw [hpool]
    exact List.length_replicate
  · rw [htable]
    exact List.nodup_nil
  · rw [htable]
    exact fun _ hn => nomatch hn
  · rw [hpool, recordAt, List.getD_eq_getElem?_getD, List.getElem?_replicate]
    split <;> rfl

/-! ### The start-up logic (chapter 10) -/

theorem stockKept_tryNext (s : State) : StockKept s s.tryNext := by
  unfold State.tryNext
  split
  · exact fun _ => stocked_empty rfl rfl
  · exact stockKept_of_eq rfl rfl

theorem stockKept_bankFailed (s : State) : StockKept s s.bankFailed := by
  refine .trans ?_ (stockKept_tryNext _)
  exact stockKept_of_eq rfl rfl

theorem stockKept_headerBDone (s : State) (v : HeaderVerdict) (copy : Option (List Byte)) :
    StockKept s (s.headerBDone v copy) := by
  refine .trans ?_ (stockKept_tryNext _)
  exact stockKept_of_eq rfl rfl

theorem stockKept_judgeBank (s : State) (image : Image) (sum : Nat) : StockKept s (s.judgeBank image sum) := by
  unfold State.judgeBank
  split
  · split
    · next x hx => exact fun _ => stocked_of_loadImage hx
    · exact stockKept_bankFailed s
  · exact stockKept_bankFailed s

theorem stockKept_bodyPageRead (s : State) (n : Nat) (data : List Byte) : StockKept s (s.bodyPageRead n data) := by
  unfold State.bodyPageRead
  dsimp only
  split
  · exact stockKept_of_eq rfl rfl
  · refine .trans ?_ (stockKept_judgeBank _ _ _)
    exact stockKept_of_eq rfl rfl

theorem stockKept_startupPage (s : State) (n : Nat) (data : List Byte) : StockKept s (s.startupPage n data) := by
  unfold State.startupPage
  split
  · exact stockKept_of_eq rfl rfl
  · exact stockKept_headerBDone s _ _
  · exact stockKept_bodyPageRead s n data
  · exact .refl s

theorem stockKept_startupFailure (s : State) : StockKept s s.startupFailure := by
  unfold State.startupFailure
  split
  · exact stockKept_of_eq rfl rfl
  · exact stockKept_headerBDone s _ _
  · exact stockKept_bankFailed s
  · exact .refl s

/-! ### The memory link (chapter 9) -/

theorem stockKept_readDone (s : State) (o : LinkOp) (n : Nat) (data : List Byte) : StockKept s (s.readDone o n data) := by
  have hidle : StockKept s s.linkIdle := stockKept_of_eq rfl rfl
  unfold State.readDone
  split
  · exact hidle.trans (tableStands_verifyPage _ n data).stockKept
  · exact hidle.trans (stockKept_startupPage _ n data)

theorem stockKept_opFailed (s : State) (o : LinkOp) : StockKept s (s.opFailed o) := by
  have hidle : StockKept s s.linkIdle := stockKept_of_eq rfl rfl
  unfold State.opFailed
  split
  · exact hidle.trans (tableStands_attemptFailure _).stockKept
  · exact hidle.trans (stockKept_startupFailure _)

theorem stockKept_pageRead (data : List Byte) (s : State) : ∀ t, execPageRead data s = .next t → StockKept s t := by
  rintro _ ⟨⟩
  split
  · split
    · refine .trans ?_ (stockKept_readDone _ _ _ data)
      exact stockKept_of_eq rfl rfl
    all_goals exact .refl s
  · exact .refl s

theorem stockKept_readyWaitTimeout (s : State) : ∀ t, execReadyWaitTimeout s = .next t → StockKept s t := by
  rintro _ ⟨⟩
  split
  · exact stockKept_opFailed s _
  all_goals exact .refl s

theorem stockKept_busyWaitTimeout (s : State) : ∀ t, execBusyWaitTimeout s = .next t → StockKept s t := by
  rintro _ ⟨⟩
  split
  · exact stockKept_opFailed s _
  all_goals exact .refl s

/-! ### Every command, every step -/

/-- R10, R11: a grant keeps what the request's own service keeps. -/
theorem stockKept_serve {s : State} {p : Port} {c : RequestCode} {decode : List Byte → Option α}
    {service : State → SlotNo → α → State × Reply}
    (h : ∀ t k x body, decode body = some x → StockKept t (service t k x).1) : StockKept s (s.serve p c decode service) := by
  rcases State.serve_cases s p c decode service with heq | ⟨k, r, -, ⟨reply, -, heq⟩ | ⟨x, hx, -, heq⟩⟩
  · rw [heq]
    exact .refl s
  · rw [heq]
    exact ((tableStands_beginService s p k r).trans (tableStands_endService _ p k r reply)).stockKept
  · rw [heq]
    exact (tableStands_beginService s p k r).stockKept.trans
      ((h _ k x r.body hx).trans (tableStands_endService _ p k r _).stockKept)

theorem tableStands_serviceSettings (interval : Nat) (s : State) : TableStands s (s.serviceSettings interval).1 := by
  unfold State.serviceSettings
  split
  · exact .refl s
  · exact tableStands_of_eq rfl rfl

/-- R1, R3, R34, R41: what every command keeps. -/
theorem exec_stockKept (c : Instr) (s : State) : ∀ t, exec c s = .next t → StockKept s t := by
  have next : ∀ {u : State}, StockKept s u → ∀ t, (.next u : Result) = .next t → StockKept s t := by
    rintro u hu _ ⟨⟩
    exact hu
  have stands : ∀ {x : Result}, (∀ t, x = .next t → TableStands s t) → ∀ t, x = .next t → StockKept s t :=
    fun h t ht => (h t ht).stockKept
  cases c with
  | attach p => exact next (tableStands_serve fun _ _ _ _ _ => tableStands_of_eq rfl rfl).stockKept
  | detach p => exact next (tableStands_serve fun k _ _ _ _ => tableStands_resetPort _ p (some k)).stockKept
  | define p => exact next (stockKept_serve fun t _ x _ _ => stockKept_serviceDefine x.1 x.2 t)
  | amend p => exact next (stockKept_serve fun t _ x _ _ => stockKept_serviceAmend x.1 x.2 t)
  | retire p => exact next (stockKept_serve fun t _ id _ _ => stockKept_serviceRetire id t)
  | renew p => exact next (stockKept_serve fun t _ id _ _ => stockKept_serviceRenew id t)
  | describe p => exact next (tableStands_serve fun _ _ id _ _ => tableStands_serviceDescribe id _).stockKept
  | list p => exact next (tableStands_serve fun _ _ _ _ _ => .refl _).stockKept
  | clear p => exact next (stockKept_serve fun t _ id _ _ => stockKept_serviceClear id t)
  | override p => exact next (stockKept_serve fun t _ x _ _ => stockKept_serviceOverride x.1 x.2 t)
  | report p => exact next (stockKept_serve fun t _ _ _ hbody => stockKept_serviceReport p hbody t)
  | watch p => exact next (tableStands_serve fun _ _ id _ _ => tableStands_serviceWatch p id _).stockKept
  | unwatch p => exact next (tableStands_serve fun _ _ _ _ _ => tableStands_modifyNotices _ p _).stockKept
  | fetch p => exact next (tableStands_serve fun _ _ _ _ _ => tableStands_modifyNotices _ p _).stockKept
  | ack p => exact next (tableStands_serve fun _ _ seq _ _ => tableStands_serviceAck p seq _).stockKept
  | claim p => exact next (tableStands_serve fun _ _ duration _ _ => tableStands_serviceClaim p duration _).stockKept
  | release p => exact next (tableStands_serve fun _ _ _ _ _ => tableStands_serviceRelease p _).stockKept
  | save p => exact next (tableStands_serve fun _ _ _ _ _ => tableStands_serviceSave _).stockKept
  | settings p => exact next (tableStands_serve fun _ _ interval _ _ => tableStands_serviceSettings interval _).stockKept
  | unknownRequestCode p => exact next (tableStands_unknownRequest s p _).stockKept
  | captureJob => exact stands (tableStands_captureJob s)
  | accrualJob => exact stockKept_accrualJob s
  | secondTick run => exact stands (tableStands_secondTick run s)
  | leaseUnitComplete => exact stands (tableStands_leaseUnitComplete s)
  | leaseExpiry => exact stands (tableStands_leaseExpiry s)
  | autosaveExpiry => exact stands (tableStands_autosaveExpiry s)
  | pfwAssert => exact stands (tableStands_pfwAssert s)
  | pfwDeassert => exact stands (tableStands_pfwDeassert s)
  | portReset p => exact stands (tableStands_portReset p s)
  | prstDeassert p => exact next (stockKept_of_eq rfl rfl)
  | deviceReset => exact next fun _ => stocked_empty rfl rfl
  | resetDeassert => exact stands (tableStands_resetDeassert s)
  | frameArrival p bytes => exact stands (tableStands_frameArrival p bytes s)
  | readSelect p => exact stands (tableStands_readSelect p s)
  | readEnd p clocked => exact next (stockKept_of_eq rfl rfl)
  | invalidSelectEnd p => exact stands (tableStands_invalidSelectEnd p s)
  | statusRead status => exact stands (tableStands_statusRead status s)
  | writeEnable => exact stands (tableStands_writeEnable s)
  | sectorEraseTransaction => exact stands (tableStands_sectorErase s)
  | pageProgramTransaction => exact stands (tableStands_pageProgram s)
  | pageRead data => exact stockKept_pageRead data s
  | readyWaitTimeout => exact stockKept_readyWaitTimeout s
  | busyWaitTimeout => exact stockKept_busyWaitTimeout s

/-- Log entry 5: a period with no command waiting leaves table and pool. -/
theorem stockKept_refclk (s : State) : StockKept s s.refclk := by
  unfold State.refclk
  split
  · exact .refl s
  · split <;> exact stockKept_of_eq rfl rfl

theorem step_stocked {s t : State} (hs : Stocked s) (h : step s = .next t) : Stocked t :=
  step_keeps stockKept_refclk (fun _ _ h => h.of_eq rfl rfl) (fun c s t hs h => exec_stockKept c s t h hs) hs h

/-- Settles O58: a REFCLK period leaves table and pool, every command keeps them sound by `exec_stockKept`. -/
theorem everyStepKeepsTheTableAndThePool : Obligations.EveryStepKeepsTheTableAndThePool := by
  rintro s t ⟨htable, hentries, hpool⟩ h
  have ht := step_stocked ⟨htable, hentries, hpool⟩ h
  exact ⟨ht.table, ht.entries, ht.pool⟩

end Sys2Proof.Machine
end

section
/-!
SUPPORT. The grants of the requests on the table: DEFINE, AMEND, RETIRE, RENEW, DESCRIBE and LIST, what each answers and
what it leaves (chapter 1), and the answer to a request that names a missing entry.
-/
namespace Sys2Proof.Machine

/-- R13: the grant of an admitted request with a well-formed body is its service, answered in its slot. -/
theorem exec_admitted {i : Instr} {s : State} {p : Port} {c : RequestCode} {k : SlotNo} {r : Request} {x : α}
    {y : State × Reply} {decode : List Byte → Option α} {service : State → SlotNo → α → State × Reply}
    (hexec : exec i s = .next (s.serve p c decode service)) (hadm : Admitted s p c k r) (hbody : decode r.body = some x)
    (hy : service (s.beginService p k r) k x = y) : exec i s = .next (y.1.endService p k r y.2) := by
  rw [hexec, hadm.serve decode service hbody, hy]

/-- A service that answers without a change is the answer alone. -/
theorem exec_answersOnly {i : Instr} {s : State} {p : Port} {c : RequestCode} {k : SlotNo} {r : Request} {x : α}
    {decode : List Byte → Option α} {service : State → SlotNo → α → State × Reply} {result : ResultCode}
    {body : List Byte} (hexec : exec i s = .next (s.serve p c decode service)) (hadm : Admitted s p c k r)
    (hbody : decode r.body = some x)
    (hy : service (s.beginService p k r) k x = (s.beginService p k r, .answer result body)) :
    ∃ t, exec i s = .next t ∧ AnswersOnly s t p k (r.reply result body) :=
  ⟨_, exec_admitted hexec hadm hbody hy, answersOnly_of ..⟩

theorem GrantFrame.notices_get {s t : State} {p : Port} {k : SlotNo} {a : Answer} {notices : Port → NoticeUnit}
    (h : GrantFrame s t p k a notices) (q : Port) : (t.ports.get q).notices = notices q := by
  rw [h.ports q, portAfterGrant]
  split
  · next hq => rw [hq]
  · rfl

/-! ### Missing entries -/

section
variable {s : State} {id : Nat} (hfind : findEntry s.table id = none)
include hfind

theorem State.serviceAmend_missing (f : Fields) : s.serviceAmend id f = (s, .answer .noSuchIndicator []) := by
  simp only [State.serviceAmend, hfind, Reply.code]

theorem State.serviceRetire_missing : s.serviceRetire id = (s, .answer .noSuchIndicator []) := by
  simp only [State.serviceRetire, hfind, Reply.code]

theorem State.serviceRenew_missing : s.serviceRenew id = (s, .answer .noSuchIndicator []) := by
  simp only [State.serviceRenew, hfind, Reply.code]

theorem State.serviceDescribe_missing : s.serviceDescribe id = (s, .answer .noSuchIndicator []) := by
  simp only [State.serviceDescribe, hfind, Reply.code]

theorem State.serviceClear_missing : s.serviceClear id = (s, .answer .noSuchIndicator []) := by
  simp only [State.serviceClear, hfind, Reply.code]

theorem State.serviceWatch_missing (p : Port) : s.serviceWatch p id = (s, .answer .noSuchIndicator []) := by
  simp only [State.serviceWatch, hfind, Reply.code]

theorem State.serviceOverride_missing (v : Nat) : s.serviceOverride id v = (s, .answer .noSuchIndicator []) := by
  simp only [State.serviceOverride, hfind, Reply.code]

end

/-- Settles O19: each of the services looks the entry up first. -/
theorem missingEntryIsAnswered : Obligations.MissingEntryIsAnswered := by
  intro s p c k r id hadm hfind hcases
  have hbegin : findEntry (s.beginService p k r).table id = none := hfind
  rcases hcases with ⟨rfl, f, hbody⟩ | ⟨hc, hbody⟩ | ⟨rfl, v, hbody⟩
  · exact exec_answersOnly rfl hadm hbody (State.serviceAmend_missing hbegin f)
  · simp only [List.mem_cons, List.not_mem_nil, or_false] at hc
    rcases hc with rfl | rfl | rfl | rfl | rfl
    · exact exec_answersOnly rfl hadm hbody (State.serviceRetire_missing hbegin)
    · exact exec_answersOnly rfl hadm hbody (State.serviceRenew_missing hbegin)
    · exact exec_answersOnly rfl hadm hbody (State.serviceDescribe_missing hbegin)
    · exact exec_answersOnly rfl hadm hbody (State.serviceClear_missing hbegin)
    · exact exec_answersOnly rfl hadm hbody (State.serviceWatch_missing hbegin p)
  · exact exec_answersOnly rfl hadm hbody (State.serviceOverride_missing hbegin v)

/-! ### DEFINE (R15, R16, R42) -/

section
variable {s : State} {id : Nat} {f : Fields} {d : Definition}

theorem State.serviceDefine_outOfRange (h : id = 0 ∨ 255 ≤ id ∨ definitionOf f = none) :
    s.serviceDefine id f = (s, .answer .outOfRange []) := by
  have hnone : (if 1 ≤ id ∧ id ≤ 254 then definitionOf f else none) = none := by
    rcases h with h | h | h
    · exact if_neg (by omega)
    · exact if_neg (by omega)
    · rw [h, ite_self]
  simp only [State.serviceDefine, hnone, Reply.code]

variable (hid : 1 ≤ id ∧ id ≤ 254) (hd : definitionOf f = some d)
include hid hd

theorem State.serviceDefine_exists (hfind : (findEntry s.table id).isSome = true) :
    s.serviceDefine id f = (s, .answer .exists_ []) := by
  simp only [State.serviceDefine, if_pos hid, hd, if_pos hfind, Reply.code]

variable (hfind : findEntry s.table id = none)
include hfind

theorem State.serviceDefine_tableFull (hfull : 64 ≤ s.table.length) :
    s.serviceDefine id f = (s, .answer .tableFull []) := by
  have hfull : Config.tableSize ≤ s.table.length := hfull
  simp only [State.serviceDefine, if_pos hid, hd, hfind, Option.isSome_none, Bool.false_eq_true, if_false, if_pos hfull,
    Reply.code]

variable (hroom : s.table.length < 64)
include hroom

theorem State.serviceDefine_poolShort (hshort : (freeRecords s.table).length < d.kind.recordsNeeded) :
    s.serviceDefine id f = (s, .answer .poolShort [byteOf (freeRecords s.table).length]) := by
  have hroom : ¬ Config.tableSize ≤ s.table.length := Nat.not_le.2 hroom
  simp only [State.serviceDefine, if_pos hid, hd, hfind, Option.isSome_none, Bool.false_eq_true, if_false, if_neg hroom,
    if_pos hshort]

theorem State.serviceDefine_creates (hfree : d.kind.recordsNeeded ≤ (freeRecords s.table).length) :
    s.serviceDefine id f =
      (((State.publish { s with table := insertEntry ((newEntry s.table id d).evaluate false) s.table }
          (newEntry s.table id d) ((newEntry s.table id d).evaluate false)).addChanges 1).refreshLines,
        .answer .ok ((newEntry s.table id d).evaluate false).brief) := by
  have hroom : ¬ Config.tableSize ≤ s.table.length := Nat.not_le.2 hroom
  simp only [State.serviceDefine, if_pos hid, hd, hfind, Option.isSome_none, Bool.false_eq_true, if_false, if_neg hroom,
    if_neg (Nat.not_lt.2 hfree)]

end

/-- Settles O11: each refusal is a line of the service, answered alone. -/
theorem defineIsRefusedInOrder : Obligations.DefineIsRefusedInOrder := by
  refine fun s p k r id f hadm hbody => ⟨fun h => ?_, fun d hlo hhi hd => ⟨fun hsome => ?_, fun hnone hfull => ?_,
    fun rd hnone hroom hkind hshort => ?_⟩⟩
  · exact exec_answersOnly rfl hadm hbody (State.serviceDefine_outOfRange h)
  · exact exec_answersOnly rfl hadm hbody (State.serviceDefine_exists ⟨hlo, hhi⟩ hd hsome)
  · exact exec_answersOnly rfl hadm hbody (State.serviceDefine_tableFull ⟨hlo, hhi⟩ hd hnone hfull)
  · have hneed : (freeRecords s.table).length < d.kind.recordsNeeded := by rwa [hkind]
    exact exec_answersOnly rfl hadm hbody (State.serviceDefine_poolShort ⟨hlo, hhi⟩ hd hnone hroom hneed)

/-- R7, R16: a new RATIO entry is SETTLING; any other is GOOD until its evaluation finds it at or below its trip level. -/
theorem newEntry_verdicts (table : List Entry) (id : Nat) (d : Definition) :
    (∃ rd, d.kind = .ratio rd) ∧ (newEntry table id d).computed = .settling ∧
        ((newEntry table id d).evaluate false).computed = .settling ∨
      (∀ rd, d.kind ≠ .ratio rd) ∧ (newEntry table id d).computed = .good ∧
        ((newEntry table id d).evaluate false).computed = if 100 ≤ d.trip then .tripped else .good := by
  cases hk : d.kind with
  | tally b => exact .inr ⟨by simp, by simp [newEntry, hk, KindDef.fresh, initialVerdict],
      by simp [newEntry, hk, KindDef.fresh, initialVerdict, nextVerdict]⟩
  | runtime g b => exact .inr ⟨by simp, by simp [newEntry, hk, KindDef.fresh, initialVerdict],
      by simp [newEntry, hk, KindDef.fresh, initialVerdict, nextVerdict]⟩
  | ratio rd => exact .inl ⟨⟨rd, rfl⟩, by simp [newEntry, hk, KindDef.fresh, initialVerdict],
      by simp [newEntry, hk, KindDef.fresh, initialVerdict, nextVerdict]⟩

/-- R16, R58: the evaluation of a new entry is handed on when it trips the entry. -/
theorem noticesAfter_newEntry (table : List Entry) (id : Nat) (d : Definition) (ps : PortState) :
    noticesAfter (newEntry table id d) ((newEntry table id d).evaluate false) ps =
      if ((newEntry table id d).evaluate false).computed = .tripped ∧ ps.attached = true then
        ps.notices.onVerdict ⟨id, .good, .tripped, 100⟩
      else ps.notices := by
  have hbefore : (newEntry table id d).published = (newEntry table id d).computed := rfl
  have hafter : ((newEntry table id d).evaluate false).published = ((newEntry table id d).evaluate false).computed := rfl
  rw [noticesAfter, hbefore, hafter]
  rcases newEntry_verdicts table id d with ⟨-, hinit, heval⟩ | ⟨-, hinit, heval⟩
  · simp only [hinit, heval, reduceCtorEq, ne_eq, not_true_eq_false, false_and, if_false]
  · rw [hinit, heval]
    split
    · simp only [ne_eq, reduceCtorEq, not_false_eq_true, true_and]
      rfl
    · simp only [ne_eq, reduceCtorEq, not_true_eq_false, false_and, if_false]

/-- R16, R42, R48: the kind data and the verdict of a new entry. -/
theorem newEntry_data {table : List Entry} {d : Definition} (id : Nat)
    (hfree : d.kind.recordsNeeded ≤ (freeRecords table).length) :
    match d.kind with
    | .tally b => (newEntry table id d).data = .tally b ∧
        ((newEntry table id d).evaluate false).computed = if 100 ≤ d.trip then .tripped else .good
    | .runtime g b => (newEntry table id d).data = .runtime g b ∧
        ((newEntry table id d).evaluate false).computed = if 100 ≤ d.trip then .tripped else .good
    | .ratio rd => ((newEntry table id d).evaluate false).computed = .settling ∧ ∃ first rest,
        (freeRecords table).take (rd.depth + 1) = first :: rest ∧
        (newEntry table id d).data =
          .ratio rd { lifetime := 0, settled := false, closed := [], opened := first, spares := rest } := by
  rcases newEntry_verdicts table id d with ⟨⟨rd, hk⟩, -, hsettling⟩ | ⟨hk, -, hgood⟩
  · rw [hk] at hfree ⊢
    exact ⟨hsettling, _, _, (headD_cons_tail_take hfree).symm, by simp [newEntry, hk, KindDef.fresh]⟩
  · cases hkind : d.kind with
    | tally b => exact ⟨by simp [newEntry, hkind, KindDef.fresh], hgood⟩
    | runtime g b => exact ⟨by simp [newEntry, hkind, KindDef.fresh], hgood⟩
    | ratio rd => exact absurd hkind (hk rd)

/-- Settles O10: the entry is `newEntry`, evaluated once; it joins the table by `insertEntry`. -/
theorem defineCreatesTheEntry : Obligations.DefineCreatesTheEntry := by
  intro s p k r id f d hadm hbody hlo hhi hd hfind hroom hfree
  have hexec := exec_admitted (i := .define p) rfl hadm hbody
    (State.serviceDefine_creates (s := s.beginService p k r) ⟨hlo, hhi⟩ hd hfind hroom hfree)
  refine ⟨_, (newEntry s.table id d).evaluate false, hexec, ?frame, ?found, ?others, ?length, ⟨rfl, rfl, rfl, rfl, rfl, rfl⟩,
    ⟨rfl, rfl, rfl, rfl, rfl, rfl⟩, ?data, ?pool, linesFollow_refresh _, ?lease, ?snap⟩
  case frame =>
    refine grantFrame_of (fun q => ?_) ?_ ?_ ?_ ?_ ?_ ?_ ?_ ?_ .ok _
    · rw [State.refreshLines_ports, State.addChanges_ports, State.publish_get, ← State.beginService_attached s p q k r,
        ← State.beginService_notices s p q k r, ← noticesAfter_newEntry]
      rfl
    all_goals simp [State.beginService]
  case found =>
    show findEntry (State.table (State.modifyPort _ _ _)) _ = _
    simp only [State.modifyPort_table, State.refreshLines_table, State.addChanges_table, State.publish_table]
    exact findEntry_insertEntry_self (e := (newEntry s.table id d).evaluate false) hfind
  case others =>
    intro i hi
    show findEntry (State.table (State.modifyPort _ _ _)) _ = _
    simp only [State.modifyPort_table, State.refreshLines_table, State.addChanges_table, State.publish_table]
    exact findEntry_insertEntry_other _ _ hi
  case length =>
    show (State.table (State.modifyPort _ _ _)).length = _
    simp only [State.modifyPort_table, State.refreshLines_table, State.addChanges_table, State.publish_table]
    exact insertEntry_length ..
  case data =>
    have hdata := newEntry_data id hfree
    cases hk : d.kind with
    | tally b => simpa only [hk, Entry.evaluate_data] using hdata
    | runtime g b => simpa only [hk, Entry.evaluate_data] using hdata
    | ratio rd => simpa only [hk, Entry.evaluate_data] using hdata
  case pool =>
    show State.pool (State.modifyPort _ _ _) = _
    simp [State.beginService]
  case lease =>
    show State.lease (State.modifyPort _ _ _) = _
    simp [State.beginService]
  case snap =>
    show State.snap (State.modifyPort _ _ _) = _
    simp [State.beginService, State.addChanges, satAdd32, Config.max32]

/-! ### AMEND (R17, R18) -/

section
variable {s : State} {id : Nat} {f : Fields} {e : Entry} (hfind : findEntry s.table id = some e)
include hfind

theorem State.serviceAmend_fixed (hfixed : f.namesFixed = true) : s.serviceAmend id f = (s, .answer .fixedField []) := by
  simp only [State.serviceAmend, hfind, if_pos hfixed, Reply.code]

variable (hfree : f.namesFixed = false)
include hfree

theorem State.serviceAmend_outOfRange (hok : f.amendOk e.kind = false) :
    s.serviceAmend id f = (s, .answer .outOfRange []) := by
  simp only [State.serviceAmend, hfind, hfree, hok, Bool.false_eq_true, if_false, Bool.not_false, if_true, Reply.code]

variable (hok : f.amendOk e.kind = true)
include hok

theorem State.serviceAmend_amends (hcarries : f.carriesAny = true) :
    s.serviceAmend id f =
      (((s.replaceEntry e (e.amend f)).addChanges 1).refreshLines, .answer .ok (e.amend f).brief) := by
  simp only [State.serviceAmend, hfind, hfree, hok, Bool.false_eq_true, if_false, Bool.not_true, if_pos hcarries]

theorem State.serviceAmend_nothing (hcarries : f.carriesAny = false) :
    s.serviceAmend id f = (s, .answer .ok e.brief) := by
  simp only [State.serviceAmend, hfind, hfree, hok, Bool.false_eq_true, if_false, Bool.not_true, hcarries]

end

theorem Fields.namesFixed_iff {f : Fields} : f.namesFixed = true ↔
    f.kind.isSome = true ∨ f.cls.isSome = true ∨ f.gate.isSome = true ∨ f.nominal.isSome = true ∨
      f.minExposure.isSome = true ∨ f.epochSize.isSome = true ∨ f.depth.isSome = true := by
  simp only [Fields.namesFixed, Fields.noRatio, Bool.or_eq_true, Bool.not_eq_true', Bool.and_eq_false_iff,
    Option.isNone_eq_false_iff, or_assoc]

/-- R17: a field out of its range fails the amendment. -/
theorem Fields.amendOk_eq_false {f : Fields} {kind : Kind}
    (h : (∃ n, f.writers = some n ∧ 15 < n) ∨
      (∃ n, f.budget = some n ∧ (kind = .ratio ∨ n = 0 ∨ 4294967295 < n)) ∨ (∃ n, f.trip = some n ∧ 199 < n) ∨
      (∃ n, f.hyst = some n ∧ (n = 0 ∨ 50 < n)) ∨
      (∃ l, f.label = some l ∧ (16 < l.length ∨ ∃ c ∈ l, c.toNat < 0x20 ∨ 0x7E < c.toNat))) :
    f.amendOk kind = false := by
  rw [← Bool.not_eq_true]
  simp only [Fields.amendOk, Bool.and_eq_true]
  rintro ⟨⟨⟨⟨hwriters, hbudget⟩, htrip⟩, hhyst⟩, hlabel⟩
  rcases h with ⟨n, hn, hout⟩ | ⟨n, hn, hout⟩ | ⟨n, hn, hout⟩ | ⟨n, hn, hout⟩ | ⟨l, hl, hout⟩
  · rw [hn, Option.all_some, decide_eq_true_eq] at hwriters
    omega
  · simp only [hn, Option.all_some, Bool.and_eq_true, decide_eq_true_eq] at hbudget
    obtain ⟨⟨hkind, hlo⟩, hhi⟩ := hbudget
    have hhi : n ≤ 4294967295 := hhi
    rcases hout with hout | hout | hout
    · exact hkind hout
    · omega
    · omega
  · rw [hn, Option.all_some, decide_eq_true_eq] at htrip
    omega
  · simp only [hn, Option.all_some, Bool.and_eq_true, decide_eq_true_eq] at hhyst
    omega
  · rw [hl, Option.all_some, labelOk_iff] at hlabel
    obtain ⟨hlen, hrange⟩ := hlabel
    rcases hout with hout | ⟨c, hc, hout⟩
    · omega
    · have := hrange c hc
      omega

/-- Settles O14: each refusal is a line of the service; no field at all is neither fixed, nor out of range, nor carried. -/
theorem amendIsRefusedInOrder : Obligations.AmendIsRefusedInOrder := by
  refine fun s p k r id f e hadm hbody hfind => ⟨fun hfixed => ?_, fun hkind hcls hgate hnom hmin hepoch hdepth hout => ?_,
    fun hempty => ?_⟩
  · exact exec_answersOnly rfl hadm hbody
      (State.serviceAmend_fixed (s := s.beginService p k r) hfind (Fields.namesFixed_iff.2 hfixed))
  · have hfree : f.namesFixed = false := by simp [Fields.namesFixed, Fields.noRatio, *]
    exact exec_answersOnly rfl hadm hbody
      (State.serviceAmend_outOfRange (s := s.beginService p k r) hfind hfree (Fields.amendOk_eq_false hout))
  · subst hempty
    have hid := findEntry_id hfind
    subst hid
    exact exec_answersOnly rfl hadm hbody
      (State.serviceAmend_nothing (s := s.beginService p k r) hfind rfl rfl rfl)

/-- R18: an amendment keeps what no field names. -/
theorem Entry.rescore_eq (e : Entry) : e.rescore = { e with score := e.rescore.score, worst := e.rescore.worst } := by
  rcases e.rescore_usage with h | ⟨-, b, h⟩
  · rw [h]
  · rw [h]
    rfl

/-- R18 step 2: the score of an amended entry. -/
theorem Entry.rescore_withFields {f : Fields} {e : Entry} {b : Nat} (hok : f.amendOk e.kind = true)
    (hb : f.budget = some b) :
    (e.withFields f).rescore.score = max 1 (100 - 100 * e.rawTotal / b) ∧
      (e.withFields f).rescore.worst = min e.worst (max 1 (100 - 100 * e.rawTotal / b)) := by
  have hkind : e.kind ≠ .ratio := by
    simp only [Fields.amendOk, hb, Option.all_some, Bool.and_eq_true, decide_eq_true_eq] at hok
    exact hok.1.1.1.2.1.1
  cases hdata : e.data with
  | tally b' => simp [Entry.rescore, Entry.withFields, hdata, KindData.setBudget, hb, Entry.setScore, usageScore]
  | runtime g b' => simp [Entry.rescore, Entry.withFields, hdata, KindData.setBudget, hb, Entry.setScore, usageScore]
  | ratio d st => exact absurd (by rw [Entry.kind, hdata]) hkind

/-- R18: an amendment reaches the fields, the score, the worst score and the verdict. -/
theorem Entry.amend_rest (f : Fields) (e : Entry) :
    e.amend f = { e.withFields f with
      score := (e.amend f).score, worst := (e.amend f).worst, computed := (e.amend f).computed } := by
  rw [Entry.amend_eq]
  split
  · rw [Entry.rescore_eq]
    rfl
  · rfl

/-- R18 step 3: the machine is evaluated once against the amended fields. -/
theorem Entry.amend_computed (f : Fields) (e : Entry) :
    (e.amend f).computed =
      nextVerdict false e.cls (e.amend f).score (f.trip.getD e.trip) (f.hyst.getD e.hyst) e.computed := by
  rw [Entry.amend_eq]
  split
  · rw [Entry.rescore_eq]
    rfl
  · rfl

/-- R18 step 2: a new budget has the score computed again, and the worst score follows it down. -/
theorem Entry.amend_score {f : Fields} {e : Entry} {b : Nat} (hok : f.amendOk e.kind = true) (hb : f.budget = some b) :
    (e.amend f).score = max 1 (100 - 100 * e.rawTotal / b) ∧ (e.amend f).worst = min e.worst (e.amend f).score := by
  obtain ⟨hscore, hworst⟩ := Entry.rescore_withFields hok hb
  have hamend : e.amend f = (e.withFields f).rescore.evaluate false := by
    rw [Entry.amend_eq, hb, Option.isSome_some, if_pos rfl]
  rw [hamend]
  exact ⟨hscore, hworst.trans (by rw [← hscore]; rfl)⟩

theorem Entry.amend_score_none {f : Fields} (e : Entry) (hb : f.budget = none) :
    (e.amend f).score = e.score ∧ (e.amend f).worst = e.worst := by
  have hamend : e.amend f = (e.withFields f).evaluate false := by
    rw [Entry.amend_eq, hb, Option.isSome_none, if_neg Bool.false_ne_true]
  rw [hamend]
  exact ⟨rfl, rfl⟩

/-- Settles O13: the amended entry takes the place of the old one by `replacesEntry_of`; its fields are those of
`Entry.amend_rest`. -/
theorem amendAppliesItsFields : Obligations.AmendAppliesItsFields := by
  intro s p k r id f e hadm hbody hfind hfree hok hcarries
  have hid := findEntry_id hfind
  subst hid
  have hexec := exec_admitted (i := .amend p) rfl hadm hbody
    (State.serviceAmend_amends (s := s.beginService p k r) hfind hfree hok hcarries)
  have hrest := e.amend_rest f
  have hreplaces := replacesEntry_of s.pool hfind (e.amend_id f) p k r .ok (e.amend f).brief
  have hbrief : (e.amend f).brief = [byteOf e.id, byteOf (e.amend f).score, byteOf (e.amend f).published.code] := by
    rw [← e.amend_id f]
    rfl
  rw [hbrief] at hreplaces
  refine ⟨_, e.amend f, hexec, hbrief ▸ hreplaces, ?pool, e.amend_id f, ?data, ?writers, ?trip, ?hyst, ?label,
    fun b hb => Entry.amend_score hok hb, e.amend_score_none, ?computed, ?cls, ?raw, ?saturated, e.amend_override f, ?tags⟩
  case pool =>
    show State.pool (State.modifyPort _ _ _) = _
    simp [State.beginService]
  case data =>
    rw [hrest]
    cases hdata : e.data with
    | tally b => simp only [Entry.withFields, hdata, KindData.setBudget]
    | runtime g b => simp only [Entry.withFields, hdata, KindData.setBudget]
    | ratio rd st => simp only [Entry.withFields, hdata, KindData.setBudget]
  case writers =>
    rw [hrest]
    cases hw : f.writers with
    | none => simp only [Entry.withFields, hw, Option.map_none, Option.getD_none]
    | some n => simp only [Entry.withFields, hw, Option.map_some, Option.getD_some, writersOf]
  case computed =>
    have htrip : (e.amend f).trip = f.trip.getD e.trip := by rw [hrest]; rfl
    have hhyst : (e.amend f).hyst = f.hyst.getD e.hyst := by rw [hrest]; rfl
    rw [htrip, hhyst]
    exact e.amend_computed f
  all_goals
    rw [hrest]
    rfl

/-! ### RETIRE and RENEW (R19 to R21, R43) -/

section
variable {s : State} {id : Nat} {e : Entry} (hfind : findEntry s.table id = some e)
include hfind

theorem State.serviceRetire_removes :
    s.serviceRetire id =
      (((State.retirementEvent { s with table := removeEntry s.table id, pool := clearRecords s.pool e.records } id
          e.score).addChanges 1).refreshLines, .answer .ok [byteOf id]) := by
  simp only [State.serviceRetire, hfind]
  rfl

theorem State.serviceRenew_renews :
    s.serviceRenew id =
      (((State.replaceEntry { s with pool := clearRecords s.pool e.records } e e.renew).addChanges 1).refreshLines,
        .answer .ok [byteOf id]) := by
  simp only [State.serviceRenew, hfind]
  rfl

end

/-- R94: a retired id stands on no watch list. -/
theorem NoticeUnit.notMem_unwatch_watch (id : Nat) (n : NoticeUnit) : id ∉ (n.unwatch id).watch := by
  simp [NoticeUnit.unwatch]

/-- Settles O15: the service removes the entry, clears its records and hands on one retirement event. -/
theorem retireRemovesTheEntry : Obligations.RetireRemovesTheEntry := by
  intro s p k r id e hadm hbody hfind
  have hexec := exec_admitted (i := .retire p) rfl hadm hbody
    (State.serviceRetire_removes (s := s.beginService p k r) hfind)
  have hframe : GrantFrame s _ p k (r.reply .ok [byteOf id]) fun q =>
      NoticeUnit.unwatch id (if (s.ports.get q).attached then (s.ports.get q).notices.retireQueue id e.score
        else (s.ports.get q).notices) :=
    grantFrame_of (t := ((State.retirementEvent { s.beginService p k r with
        table := removeEntry s.table id, pool := clearRecords s.pool e.records } id e.score).addChanges 1).refreshLines)
      (fun q => by
        rw [State.refreshLines_ports, State.addChanges_ports, State.retirementEvent_get,
          ← State.beginService_attached s p q k r, ← State.beginService_notices s p q k r])
      (by simp [State.beginService]) (by simp [State.beginService]) (by simp [State.beginService])
      (by simp [State.beginService]) (by simp [State.beginService]) (by simp [State.beginService])
      (by simp [State.beginService]) (by simp [State.beginService]) .ok [byteOf id]
  refine ⟨_, hexec, hframe, ?gone, ?others, fun q => ?watch, ?cleared, ?stands, ?free, linesFollow_refresh _, ?lease, ?snap⟩
  case gone =>
    show findEntry (State.table (State.modifyPort _ _ _)) _ = _
    simp only [State.modifyPort_table, State.refreshLines_table, State.addChanges_table, State.retirementEvent_table]
    exact findEntry_removeEntry_self ..
  case others =>
    intro i hi
    show findEntry (State.table (State.modifyPort _ _ _)) _ = _
    simp only [State.modifyPort_table, State.refreshLines_table, State.addChanges_table, State.retirementEvent_table]
    exact findEntry_removeEntry_other _ hi
  case watch =>
    exact Eq.subst (motive := fun n => id ∉ NoticeUnit.watch n) (hframe.notices_get q).symm
      (NoticeUnit.notMem_unwatch_watch id _)
  case cleared =>
    intro n hn
    show recordAt (State.pool (State.modifyPort _ _ _)) n = _
    simp only [State.modifyPort_pool, State.refreshLines_pool, State.addChanges_pool, State.retirementEvent_pool]
    exact (recordAt_clearRecords ..).trans (if_pos hn)
  case stands =>
    intro n hn
    show recordAt (State.pool (State.modifyPort _ _ _)) n = _
    simp only [State.modifyPort_pool, State.refreshLines_pool, State.addChanges_pool, State.retirementEvent_pool]
    exact (recordAt_clearRecords ..).trans (if_neg hn)
  case free =>
    intro htable hpool n hn
    show recordFree (State.table (State.modifyPort _ _ _)) n = _
    simp only [State.modifyPort_table, State.refreshLines_table, State.addChanges_table, State.retirementEvent_table]
    have hfree := recordFree_removeEntry htable hpool (findEntry_mem hfind) hn
    rwa [findEntry_id hfind] at hfree
  case lease =>
    show State.lease (State.modifyPort _ _ _) = _
    simp [State.beginService]
  case snap =>
    show State.snap (State.modifyPort _ _ _) = _
    simp [State.beginService, State.addChanges, satAdd32, Config.max32]

/-- R21, R43, R48: the kind data and the verdict of a renewed entry. -/
theorem Entry.renew_data (e : Entry) :
    match e.data with
    | .tally b => e.renew.data = .tally b ∧ e.renew.computed = if 100 ≤ e.trip then .tripped else .good
    | .runtime g b => e.renew.data = .runtime g b ∧ e.renew.computed = if 100 ≤ e.trip then .tripped else .good
    | .ratio rd st => e.renew.computed = .settling ∧ e.renew.data = .ratio rd
        { lifetime := 0, settled := false, closed := []
          opened := (ascending (st.closed ++ st.opened :: st.spares)).headD 0
          spares := (ascending (st.closed ++ st.opened :: st.spares)).tail } := by
  cases hdata : e.data with
  | tally b => simp [Entry.renew, hdata, KindData.renew, initialVerdict, nextVerdict]
  | runtime g b => simp [Entry.renew, hdata, KindData.renew, initialVerdict, nextVerdict]
  | ratio rd st => simp [Entry.renew, hdata, KindData.renew, initialVerdict, nextVerdict]

/-- Settles O16: the renewed entry takes the place of the old one by `replacesEntry_of`, over the pool with its records
cleared. -/
theorem renewRestartsTheEntry : Obligations.RenewRestartsTheEntry := by
  intro s p k r id e hadm hbody hfind
  have hid := findEntry_id hfind
  subst hid
  have hexec := exec_admitted (i := .renew p) rfl hadm hbody
    (State.serviceRenew_renews (s := s.beginService p k r) hfind)
  refine ⟨_, e.renew, hexec, replacesEntry_of (clearRecords s.pool e.records) hfind e.renew_id p k r .ok _,
    ⟨rfl, rfl, rfl, rfl, rfl, rfl, rfl⟩, ⟨rfl, rfl, rfl, rfl, rfl⟩, ?data, ?cleared, ?stands⟩
  case data =>
    have hdata := e.renew_data
    cases hk : e.data with
    | tally b => simpa only [hk] using hdata
    | runtime g b => simpa only [hk] using hdata
    | ratio rd st =>
      simp only [hk] at hdata
      obtain ⟨hverdict, hdata⟩ := hdata
      refine ⟨hverdict, _, hdata, rfl, rfl, rfl, fun hpool => ?_⟩
      have hrecords : e.records = st.closed ++ st.opened :: st.spares := by rw [Entry.records, hk]
      have he := findEntry_mem hfind
      obtain ⟨-, hheld, hlt, -⟩ := hpool
      have hnodup : (st.closed ++ st.opened :: st.spares).Nodup := hrecords ▸ records_nodup hheld he
      have hrange : ∀ n ∈ st.closed ++ st.opened :: st.spares, n < Config.poolSize := fun n hn =>
        hlt n (mem_heldRecords.2 ⟨e, he, hrecords ▸ hn⟩)
      rw [headD_cons_tail_ascending (by simp) hnodup hrange]
      exact ⟨ascending_perm hnodup hrange, ascending_pairwise _⟩
  case cleared =>
    intro n hn
    show recordAt (State.pool (State.modifyPort _ _ _)) n = _
    simp only [State.modifyPort_pool, State.refreshLines_pool, State.addChanges_pool, State.replaceEntry_pool]
    exact (recordAt_clearRecords ..).trans (if_pos hn)
  case stands =>
    intro n hn
    show recordAt (State.pool (State.modifyPort _ _ _)) n = _
    simp only [State.modifyPort_pool, State.refreshLines_pool, State.addChanges_pool, State.replaceEntry_pool]
    exact (recordAt_clearRecords ..).trans (if_neg hn)

/-! ### DESCRIBE and LIST (R22, R23) -/

/-- R23: of a table in ascending order, LIST takes what follows the entries below the start id. -/
theorem listFrom_append {below found : List Entry} {start : Nat} (hbelow : ∀ e ∈ below, e.id < start)
    (hfound : ∀ e ∈ found, start ≤ e.id) : listFrom (below ++ found) start = found := by
  have hnone : below.filter (fun e => decide (start ≤ e.id)) = [] :=
    List.filter_eq_nil_iff.2 fun e he => by simpa using hbelow e he
  have hall : found.filter (fun e => decide (start ≤ e.id)) = found :=
    List.filter_eq_self.2 fun e he => by simpa using hfound e he
  rw [listFrom, List.filter_append, hnone, hall, List.nil_append]

/-- R23, R183: the body of a LIST answer. -/
theorem listBody_append {below found : List Entry} {start : Nat} (hbelow : ∀ e ∈ below, e.id < start)
    (hfound : ∀ e ∈ found, start ≤ e.id) :
    listBody (below ++ found) start =
      [byteOf (min 16 found.length), if 16 < found.length then 1 else 0] ++
        (found.take 16).flatMap fun e =>
          [byteOf e.id, byteOf e.kind.code, byteOf e.cls.code, byteOf e.published.code, byteOf e.score] := by
  have hflag : byteOf (decide (16 < found.length)).toNat = if 16 < found.length then 1 else 0 := by
    rw [byteOf_toNat_flag]
    simp only [decide_eq_true_eq]
  rw [listBody, listFrom_append hbelow hfound, ← hflag, ← List.length_take]
  rfl

/-- Settles O17: the service of DESCRIBE and that of LIST answer without a change. -/
theorem describeAndListOnlyRead : Obligations.DescribeAndListOnlyRead := by
  refine fun s p k r id => ⟨fun e hadm hbody hfind => ?_, fun below found hadm hbody htable hbelow hfound => ?_⟩
  · refine exec_answersOnly rfl hadm hbody ?_
    have hfind : findEntry (s.beginService p k r).table id = some e := hfind
    simp only [State.serviceDescribe, hfind]
    rfl
  · rw [← listBody_append hbelow hfound, ← htable]
    exact exec_answersOnly (service := fun t _ start => (t, .answer .ok (listBody t.table start))) rfl hadm hbody rfl

end Sys2Proof.Machine
end

section
/-!
SUPPORT. The 108 bytes of the DESCRIBE record (R22, R186): two runs of numbers, one ahead of the label and one behind it, then
the tag history and the window summary.
-/
namespace Sys2Proof.Machine

/-- R186: the numbers of the record ahead of the label. -/
def Entry.describeHead (e : Entry) : List (Nat × Nat) :=
  let r := e.data.ratioCode
  [(1, e.id), (1, e.kind.code), (1, e.cls.code), (1, e.data.gateCode), (1, writersCode e.writers), (2, kindMask e.kind),
    (4, e.data.budgetCode), (4, r.nominal), (4, r.minExposure), (4, r.epochSize), (1, r.depth), (1, e.trip), (1, e.hyst),
    (1, e.label.length)]

/-- R186: the numbers of the record between the label and the tag history. -/
def Entry.describeTail (e : Entry) : List (Nat × Nat) :=
  [(6, e.rawTotal), (6, e.data.lifetimeCode), (1, e.saturated.toNat), (1, e.data.settledFlag.toNat), (1, e.score),
    (1, e.worst), (1, e.computed.code), (1, e.override.code), (1, e.published.code), (1, e.tags.length)]

theorem flagByte_eq (b : Bool) : flagByte b = byteOf b.toNat := by cases b <;> rfl

theorem Entry.describeRecord_eq (pool : List EpochRecord) (e : Entry) :
    e.describeRecord pool = layoutBytes e.describeHead ++
      (padTo 16 e.label ++ (layoutBytes e.describeTail ++ (tagBytes e.tags ++ windowSummary pool e.data))) := by
  simp [Entry.describeRecord, Entry.describeHead, Entry.describeTail, layoutBytes, byteList, leBytes, flagByte_eq]

theorem Entry.describeHead_length (e : Entry) : (layoutBytes e.describeHead).length = 27 := by
  simp [layoutBytes_length, Entry.describeHead]

theorem Entry.describeTail_length (e : Entry) : (layoutBytes e.describeTail).length = 20 := by
  simp [layoutBytes_length, Entry.describeTail]

theorem windowSummary_length (pool : List EpochRecord) (d : KindData) : (windowSummary pool d).length = 13 := by
  cases d <;> simp [windowSummary, zeros]

theorem Entry.describeRecord_length (pool : List EpochRecord) (e : Entry) : (e.describeRecord pool).length = 108 := by
  simp only [Entry.describeRecord_eq, List.length_append, e.describeHead_length, e.describeTail_length, padTo_length,
    tagBytes_length, windowSummary_length]

/-! ### The parts of the record -/

/-- A field behind the first bytes of a record. -/
theorem fieldAt_drop (bs : List Byte) (n offset w : Nat) : fieldAt (bs.drop n) offset w = fieldAt bs (n + offset) w := by
  rw [fieldAt, fieldAt, List.drop_drop]

theorem fieldAt_zeros (n offset w : Nat) : fieldAt (zeros n) offset w = 0 := by
  rw [fieldAt, zeros, List.drop_replicate, List.take_replicate]
  exact leNat_zeros _

section
variable (pool : List EpochRecord) (e : Entry)

theorem Entry.describeRecord_behindHead :
    (e.describeRecord pool).drop 27 =
      padTo 16 e.label ++ (layoutBytes e.describeTail ++ (tagBytes e.tags ++ windowSummary pool e.data)) := by
  rw [Entry.describeRecord_eq, List.drop_left' e.describeHead_length]

theorem Entry.describeRecord_behindLabel :
    (e.describeRecord pool).drop 43 =
      layoutBytes e.describeTail ++ (tagBytes e.tags ++ windowSummary pool e.data) := by
  rw [show 43 = 27 + 16 from rfl, ← List.drop_drop, Entry.describeRecord_behindHead, List.drop_left' (padTo_length ..)]

theorem Entry.describeRecord_behindTail :
    (e.describeRecord pool).drop 63 = tagBytes e.tags ++ windowSummary pool e.data := by
  rw [show 63 = 43 + 20 from rfl, ← List.drop_drop, Entry.describeRecord_behindLabel,
    List.drop_left' e.describeTail_length]

theorem Entry.describeRecord_behindTags : (e.describeRecord pool).drop 95 = windowSummary pool e.data := by
  rw [show 95 = 63 + 32 from rfl, ← List.drop_drop, Entry.describeRecord_behindTail, List.drop_left' (tagBytes_length ..)]

end

theorem toNat_eq_ite (b : Bool) : b.toNat = if b then 1 else 0 := by cases b <;> rfl

theorem kindMask_lt (kind : Kind) : kindMask kind < 65536 := by cases kind <;> decide
theorem IndicatorClass.code_lt (cls : IndicatorClass) : cls.code < 256 := by cases cls <;> decide
theorem Override.code_lt (o : Override) : o.code < 256 := by cases o <;> decide

section
variable {e : Entry}

theorem Entry.Sound.describeHead_fits (h : e.Sound) (hid : e.id ≤ 254) : LayoutFits e.describeHead := by
  obtain ⟨hdepth, hbudget, hnominal, hmin, hepoch, -, -⟩ := h.data.codes_lt
  have hkind := e.kind.code_lt
  have hcls := e.cls.code_lt
  have hgate := e.data.gateCode_lt
  have hwriters := (writersCode_bits e.writers).1
  have hmask := kindMask_lt e.kind
  have htrip := h.trip
  have hhyst := h.hyst
  have hlabel := labelOk_length h.label
  simp only [LayoutFits, Entry.describeHead, List.forall_mem_cons, List.not_mem_nil, false_implies, implies_true, and_true]
  omega

theorem Entry.Sound.describeTail_fits (h : e.Sound) : LayoutFits e.describeTail := by
  obtain ⟨-, -, -, -, -, hlife, -⟩ := h.data.codes_lt
  have hraw : e.rawTotal ≤ 281474976710655 := h.raw
  have hscore : e.score ≤ 200 := Nat.le_trans h.score.2 (by split <;> decide)
  have hworst := h.worst
  have hcomputed := e.computed.code_lt
  have hoverride := e.override.code_lt
  have hpublished := e.published.code_lt
  have htags : e.tags.length ≤ 8 := h.tags.1
  have hsaturated := Bool.toNat_le e.saturated
  have hsettled := Bool.toNat_le e.data.settledFlag
  simp only [LayoutFits, Entry.describeTail, List.forall_mem_cons, List.not_mem_nil, false_implies, implies_true, and_true]
  omega

/-- R186: a field ahead of the label. -/
theorem Entry.Sound.headField (h : e.Sound) (hid : e.id ≤ 254) (pool : List EpochRecord) {k offset w n : Nat}
    (hk : e.describeHead[k]? = some (w, n))
    (hoffset : ((e.describeHead.take k).map Prod.fst).sum = offset := by simp [Entry.describeHead]) :
    fieldAt (e.describeRecord pool) offset w = n := by
  rw [Entry.describeRecord_eq]
  exact fieldAt_layoutBytes (h.describeHead_fits hid) _ hk hoffset

/-- R186: a field between the label and the tag history. -/
theorem Entry.Sound.tailField (h : e.Sound) (pool : List EpochRecord) {k offset w n : Nat}
    (hk : e.describeTail[k]? = some (w, n))
    (hoffset : 43 + ((e.describeTail.take k).map Prod.fst).sum = offset := by simp [Entry.describeTail]) :
    fieldAt (e.describeRecord pool) offset w = n := by
  rw [← hoffset, ← fieldAt_drop, Entry.describeRecord_behindLabel]
  exact fieldAt_layoutBytes h.describeTail_fits _ hk rfl

/-- R70, R186: tag j of the history. -/
theorem Entry.Sound.tagField (h : e.Sound) (pool : List EpochRecord) {j : Nat} (hj : j < 8) :
    fieldAt (e.describeRecord pool) (63 + 4 * j) 4 = e.tags.getD j 0 := by
  have hrange : e.tags.getD j 0 < 4294967296 := by
    rw [List.getD_eq_getElem?_getD]
    cases htag : e.tags[j]? with
    | none => decide
    | some t =>
      have ht : t ≤ 4294967295 := (h.tags.2.2 t (List.mem_of_getElem? htag)).2
      rw [Option.getD_some]
      omega
  have hlen := tagBytes_length e.tags
  rw [← fieldAt_drop, Entry.describeRecord_behindTail, fieldAt_append_left _ (by omega), tagBytes_field _ hj,
    Nat.mod_eq_of_lt hrange]

theorem Entry.describeRecord_label (pool : List EpochRecord) (h : labelOk e.label = true) :
    ((e.describeRecord pool).drop 27).take 16 = e.label ++ List.replicate (16 - e.label.length) 0 := by
  rw [Entry.describeRecord_behindHead, List.take_left' (padTo_length ..), padTo_of_le (labelOk_length h), zeros]

/-- R186: a field of the window summary. -/
theorem Entry.summaryField (pool : List EpochRecord) (offset w : Nat) :
    fieldAt (e.describeRecord pool) (95 + offset) w = fieldAt (windowSummary pool e.data) offset w := by
  rw [← fieldAt_drop, Entry.describeRecord_behindTags]

/-- R22: a TALLY or RUNTIME entry has no window. -/
theorem Entry.summaryField_zeros {pool : List EpochRecord} (hsummary : windowSummary pool e.data = zeros 13)
    (offset w : Nat) : fieldAt (e.describeRecord pool) (95 + offset) w = 0 := by
  rw [Entry.summaryField, hsummary, fieldAt_zeros]

/-- R22, R36, R37: the window summary of a RATIO entry. -/
theorem Entry.Sound.summaryField_ratio (h : e.Sound) (pool : List EpochRecord) {rd : RatioDef} {st : RatioState}
    (hdata : e.data = .ratio rd st) :
    fieldAt (e.describeRecord pool) 95 1 = st.closed.length ∧
      fieldAt (e.describeRecord pool) 96 6 = windowErrors pool st % 281474976710656 ∧
      fieldAt (e.describeRecord pool) 102 6 = windowExposure pool st % 281474976710656 := by
  have hclosed : st.closed.length < 256 := by
    obtain ⟨-, -, -, -, -, -, hcount⟩ := h.data.codes_lt
    rwa [hdata] at hcount
  have hsummary : windowSummary pool e.data =
      leBytes 1 st.closed.length ++ (leBytes 6 (windowErrors pool st) ++ (leBytes 6 (windowExposure pool st) ++ [])) := by
    rw [hdata, List.append_nil]
    rfl
  refine ⟨(e.summaryField pool 0 1).trans ?_, (e.summaryField pool 1 6).trans ?_, (e.summaryField pool 7 6).trans ?_⟩
  · rw [hsummary, fieldAt_head _ (leBytes_length ..)]
    exact leNat_leBytes_of_lt hclosed
  · rw [hsummary, fieldAt_append_right _ _ 6 (by rw [leBytes_length]), leBytes_length, fieldAt_head _ (leBytes_length ..)]
    exact leNat_leBytes 6 _
  · rw [hsummary, fieldAt_append_right _ _ 6 (by rw [leBytes_length]; decide), leBytes_length,
      fieldAt_append_right _ _ 6 (by rw [leBytes_length]), leBytes_length, fieldAt_head _ (leBytes_length ..)]
    exact leNat_leBytes 6 _

/-- R22, R186: the fields of the record that belong to the kind. -/
theorem Entry.Sound.kindFields (h : e.Sound) (hid : e.id ≤ 254) (pool : List EpochRecord) :
    match e.data with
    | .tally b | .runtime _ b =>
      fieldAt (e.describeRecord pool) 7 4 = b ∧ fieldAt (e.describeRecord pool) 11 4 = 0 ∧
      fieldAt (e.describeRecord pool) 15 4 = 0 ∧ fieldAt (e.describeRecord pool) 19 4 = 0 ∧
      fieldAt (e.describeRecord pool) 23 1 = 0 ∧ fieldAt (e.describeRecord pool) 49 6 = 0 ∧
      fieldAt (e.describeRecord pool) 56 1 = 0 ∧ fieldAt (e.describeRecord pool) 95 1 = 0 ∧
      fieldAt (e.describeRecord pool) 96 6 = 0 ∧ fieldAt (e.describeRecord pool) 102 6 = 0
    | .ratio rd st =>
      fieldAt (e.describeRecord pool) 7 4 = 0 ∧ fieldAt (e.describeRecord pool) 11 4 = rd.nominal ∧
      fieldAt (e.describeRecord pool) 15 4 = rd.minExposure ∧ fieldAt (e.describeRecord pool) 19 4 = rd.epochSize ∧
      fieldAt (e.describeRecord pool) 23 1 = rd.depth ∧ fieldAt (e.describeRecord pool) 49 6 = st.lifetime ∧
      fieldAt (e.describeRecord pool) 56 1 = (if st.settled then 1 else 0) ∧
      fieldAt (e.describeRecord pool) 95 1 = st.closed.length ∧
      fieldAt (e.describeRecord pool) 96 6 = windowErrors pool st % 281474976710656 ∧
      fieldAt (e.describeRecord pool) 102 6 = windowExposure pool st % 281474976710656 := by
  have hbudget := h.headField hid pool (k := 6) (offset := 7) rfl
  have hnominal := h.headField hid pool (k := 7) (offset := 11) rfl
  have hmin := h.headField hid pool (k := 8) (offset := 15) rfl
  have hepoch := h.headField hid pool (k := 9) (offset := 19) rfl
  have hdepth := h.headField hid pool (k := 10) (offset := 23) rfl
  have hlife := h.tailField pool (k := 1) (offset := 49) rfl
  have hsettled := h.tailField pool (k := 3) (offset := 56) rfl
  cases hdata : e.data with
  | tally b =>
    have hzeros := e.summaryField_zeros (pool := pool) (by rw [hdata]; rfl)
    rw [hdata] at hbudget hnominal hmin hepoch hdepth hlife hsettled
    exact ⟨hbudget, hnominal, hmin, hepoch, hdepth, hlife, hsettled, hzeros 0 1, hzeros 1 6, hzeros 7 6⟩
  | runtime g b =>
    have hzeros := e.summaryField_zeros (pool := pool) (by rw [hdata]; rfl)
    rw [hdata] at hbudget hnominal hmin hepoch hdepth hlife hsettled
    exact ⟨hbudget, hnominal, hmin, hepoch, hdepth, hlife, hsettled, hzeros 0 1, hzeros 1 6, hzeros 7 6⟩
  | ratio rd st =>
    rw [hdata] at hbudget hnominal hmin hepoch hdepth hlife hsettled
    exact ⟨hbudget, hnominal, hmin, hepoch, hdepth, hlife, hsettled.trans (toNat_eq_ite _),
      h.summaryField_ratio pool hdata⟩

end

/-- Settles O18: each field is the number of `Entry.describeHead` or `Entry.describeTail` that stands there. -/
theorem describeRecordLayout : Obligations.DescribeRecordLayout := by
  refine ⟨⟨rfl, rfl, rfl⟩, ⟨rfl, rfl⟩, ⟨rfl, rfl⟩, ⟨rfl, rfl, rfl, rfl⟩, ⟨rfl, rfl, rfl⟩, fun e pool h hid =>
    ⟨e.describeRecord_length pool, h.headField hid pool (k := 0) rfl, ?kind, ?cls, ?gate, ?writers, ?mask,
    h.kindFields hid pool, h.headField hid pool (k := 11) rfl, h.headField hid pool (k := 12) rfl,
    h.headField hid pool (k := 13) rfl, e.describeRecord_label pool h.label, h.tailField pool (k := 0) rfl, ?saturated,
    h.tailField pool (k := 4) rfl, h.tailField pool (k := 5) rfl, ?computed, ?override, ?published,
    h.tailField pool (k := 9) rfl, fun j hj => h.tagField pool hj⟩⟩
  case kind =>
    refine (h.headField hid pool (k := 1) rfl).trans ?_
    cases e.kind <;> rfl
  case cls =>
    refine (h.headField hid pool (k := 2) rfl).trans ?_
    cases e.cls <;> rfl
  case gate =>
    refine (h.headField hid pool (k := 3) rfl).trans ?_
    cases e.data with
    | tally b => rfl
    | runtime g b => cases g <;> rfl
    | ratio rd st => rfl
  case writers =>
    rw [h.headField hid pool (k := 4) rfl]
    exact (writersCode_bits e.writers).2.2
  case mask =>
    refine (h.headField hid pool (k := 5) rfl).trans ?_
    cases e.kind <;> rfl
  case saturated => exact (h.tailField pool (k := 2) rfl).trans (toNat_eq_ite _)
  case computed =>
    refine (h.tailField pool (k := 6) rfl).trans ?_
    cases e.computed <;> rfl
  case override =>
    refine (h.tailField pool (k := 7) rfl).trans ?_
    cases e.override <;> rfl
  case published =>
    refine (h.tailField pool (k := 8) rfl).trans ?_
    cases e.published <;> rfl

end Sys2Proof.Machine
end

section
/-!
SUPPORT. The grant of a request, whatever its code: the checks at grant in their order (R13, R14), and a grant that is not
the arbiter's choice (log entry 3).
-/
namespace Sys2Proof.Machine

/-- R10, R13: every request with a known code is served alike, its body decoded as `bodyDecodes` says. -/
theorem exec_grantCommand (p : Port) (c : RequestCode) (s : State) :
    ∃ (α : Type) (decode : List Byte → Option α) (service : State → SlotNo → α → State × Reply),
      exec (grantCommand p c) s = .next (s.serve p c decode service) ∧
        ∀ body, (decode body).isSome = bodyDecodes body c := by
  cases c <;> exact ⟨_, _, _, rfl, fun _ => rfl⟩

/-! ### The table of the checks (R14) -/

theorem requestRow_exemptAttached {c : RequestCode} (h : c ≠ .attach) : (requestRow c).exemptAttached = false := by
  cases c with
  | attach => exact absurd rfl h
  | _ => rfl

theorem requestRow_heldToLease (c : RequestCode) : (requestRow c).heldToLease = decide (c ∈ heldRequests) := by
  cases c <;> rfl

theorem requestRow_refusedFrozen (c : RequestCode) : (requestRow c).refusedFrozen = decide (c ∈ frozenRequests) := by
  cases c <;> rfl

theorem frozenBody_eq (c : RequestCode) : frozenBody c = if c = .report then [0] else [] := by cases c <;> rfl

/-! ### The checks in their order (R13) -/

section
variable {s : State} {p : Port} {c : RequestCode}

theorem State.checkFailure_notAttached {decoded : Bool} (hc : c ≠ .attach) (ha : (s.ports.get p).attached = false) :
    s.checkFailure p c decoded = some (.answer .notAttached []) := by
  simp only [State.checkFailure, requestRow_exemptAttached hc, ha, Bool.not_false, Bool.and_self, if_true, Reply.code]

/-- R13, R14: the attached check passes. -/
theorem attachedCheck_passes (ha : c = .attach ∨ (s.ports.get p).attached = true) :
    (!(requestRow c).exemptAttached && !(s.ports.get p).attached) = false := by
  rcases ha with rfl | ha
  · rfl
  · rw [ha, Bool.not_true, Bool.and_false]

theorem State.checkFailure_badRequest (ha : c = .attach ∨ (s.ports.get p).attached = true) :
    s.checkFailure p c false = some (.answer .badRequest []) := by
  simp only [State.checkFailure, attachedCheck_passes ha, Bool.false_eq_true, if_false, Bool.not_false, if_true, Reply.code]

theorem State.checkFailure_notHolder (ha : (s.ports.get p).attached = true) (hc : c ∈ heldRequests)
    (hl : s.lease.holder ≠ some p) : s.checkFailure p c true = some (.answer .notHolder s.lease.holderBody) := by
  simp only [State.checkFailure, attachedCheck_passes (.inr ha), requestRow_heldToLease, hc, decide_true, hl, ne_eq,
    not_false_eq_true, Bool.and_self, Bool.false_eq_true, Bool.not_true, if_false, if_true]

theorem State.checkFailure_frozen (ha : (s.ports.get p).attached = true) (hl : c ∈ heldRequests → s.lease.holder = some p)
    (hc : c ∈ frozenRequests) (hp : s.phase = .frozen) :
    s.checkFailure p c true = some (.answer .frozen (frozenBody c)) := by
  have hlease : ((requestRow c).heldToLease && decide (s.lease.holder ≠ some p)) = false := by
    rw [requestRow_heldToLease, Bool.and_eq_false_iff, decide_eq_false_iff_not, decide_eq_false_iff_not, Classical.not_not]
    exact Decidable.or_iff_not_imp_left.2 fun h => hl (Decidable.not_not.1 h)
  simp only [State.checkFailure, attachedCheck_passes (.inr ha), hlease, requestRow_refusedFrozen, hc, hp, decide_true,
    Bool.and_self, Bool.false_eq_true, Bool.not_true, if_false, if_true]

end

/-- R13: a grant that a check refuses answers with the refusal and changes nothing else. -/
theorem exec_grantCommand_refused {s : State} {p : Port} {c : RequestCode} {k : SlotNo} {r : Request}
    {result : ResultCode} {body : List Byte} (hg : Granted s p c k r)
    (hcheck : s.checkFailure p c (bodyDecodes r.body c) = some (.answer result body)) :
    ∃ t, exec (grantCommand p c) s = .next t ∧ AnswersOnly s t p k (r.reply result body) := by
  obtain ⟨α, decode, service, hexec, hdecodes⟩ := exec_grantCommand p c s
  rw [← hdecodes, ← State.checkFailure_begin s p k r] at hcheck
  rw [hexec, State.serve_refused hg decode service hcheck]
  exact ⟨_, rfl, answersOnly_of ..⟩

/-- R13, R123: a request of unknown code is answered and changes nothing else. -/
theorem exec_unknownRequestCode_chosen {s : State} {p : Port} {k : SlotNo} {r : Request}
    (h : s.arbiterChoice = some (.request p k r)) (hcode : requestOf r.code = none) :
    exec (.unknownRequestCode p) s = .next ((s.beginService p k r).endService p k r
      (.answer (if (s.ports.get p).attached then .badRequest else .notAttached) [])) := by
  rw [← State.beginService_attached s p p k r]
  simp only [exec, execUnknownRequestCode, State.grantRequest, h, hcode, and_self, if_true, Reply.code]

/-- Settles O6: each check is a line of `State.checkFailure`. -/
theorem checksAtGrantDecideInOrder : Obligations.ChecksAtGrantDecideInOrder := by
  refine ⟨fun s p c k r hg => ⟨fun hc ha => ?_, fun ha hbody => ?_, fun ha hbody hc hl => ?_,
    fun ha hbody hl hc hp => ?_⟩, fun s p k r hchoice hcode => ?_⟩
  · exact exec_grantCommand_refused hg (State.checkFailure_notAttached hc ha)
  · exact exec_grantCommand_refused hg (hbody ▸ State.checkFailure_badRequest ha)
  · have hrefused := exec_grantCommand_refused hg (hbody ▸ State.checkFailure_notHolder ha hc hl)
    rw [Lease.holderBody_eq] at hrefused
    exact hrefused
  · rw [← frozenBody_eq]
    refine exec_grantCommand_refused hg (hbody ▸ State.checkFailure_frozen ha (fun hheld => hl ?_) hc hp)
    have hboth : ∀ c : RequestCode, c ∈ heldRequests → c ∈ frozenRequests →
        c ∈ [RequestCode.define, .amend, .retire, .renew, .clear, .settings] := by decide
    exact hboth c hheld hc
  · exact ⟨_, exec_unknownRequestCode_chosen hchoice hcode, answersOnly_of ..⟩

/-! ### A grant that is not the arbiter's choice (log entry 3) -/

/-- Log entry 3: a request with an unknown code is granted when it is the arbiter's choice alone. -/
theorem exec_unknownRequestCode_other {s : State} {p : Port}
    (h : ∀ k r, s.arbiterChoice = some (.request p k r) → requestOf r.code ≠ none) :
    exec (.unknownRequestCode p) s = .next s := by
  refine congrArg Host.Outcome.next ?_
  unfold State.grantRequest
  split
  · next q k r hchoice =>
    refine if_neg fun hq => ?_
    obtain ⟨rfl, hcode⟩ := hq
    exact h k r hchoice hcode
  all_goals rfl

theorem exec_captureJob_other {s : State} (h : s.arbiterChoice ≠ some .capture) : exec .captureJob s = .next s := by
  refine congrArg Host.Outcome.next ?_
  split
  · next hchoice => exact absurd hchoice h
  all_goals rfl

theorem exec_accrualJob_other {s : State} (h : s.arbiterChoice ≠ some .accrual) : exec .accrualJob s = .next s := by
  refine congrArg Host.Outcome.next ?_
  split
  · next hchoice => exact absurd hchoice h
  all_goals rfl

/-- Settles O7: a request by `State.serve_other`, the others by the cases of the arbiter's choice. -/
theorem unchosenGrantChangesNothing : Obligations.UnchosenGrantChangesNothing := by
  refine fun s => ⟨fun p c h => ?_, fun p h => exec_unknownRequestCode_other h, exec_captureJob_other,
    exec_accrualJob_other⟩
  obtain ⟨α, decode, service, hexec, -⟩ := exec_grantCommand p c s
  rw [hexec, State.serve_other decode service h]

end Sys2Proof.Machine
end

section
/-!
SUPPORT. The slots of a port agree with its arrival order, its answer order and the waiting list (R119, R125 to R127, R135,
R142): what each change of a slot leaves of that.
-/
namespace Sys2Proof.Machine

/-! ### A detached port, and one without a waiting SAVE -/

theorem portSound_reset {waiting : List WaitingSave} {p : Port} (h : ∀ w ∈ waiting, w.port ≠ p) :
    PortSound waiting p .reset where
  arrival := ⟨List.nodup_nil, fun k => by cases k <;> simp [PortState.reset, Slots.get]⟩
  answers := ⟨List.nodup_nil, fun k => by cases k <;> simp [PortState.reset, Slots.get]⟩
  service := fun k r => by cases k <;> simp [PortState.reset, Slots.get]
  waiting := fun k => by
    have hnone : ¬ ∃ b, (⟨p, k, b⟩ : WaitingSave) ∈ waiting := fun ⟨b, hb⟩ => h _ hb rfl
    cases k <;> simp [PortState.reset, Slots.get, hnone]
  counts := ⟨Nat.zero_le _, Nat.zero_le _⟩
  detached := fun _ => ⟨rfl, fun k r => by cases k <;> simp [PortState.reset, Slots.get]⟩

/-- R142: a port looks at its own SAVEs on the waiting list alone. -/
theorem PortSound.of_waiting {w w' : List WaitingSave} {p : Port} {ps : PortState} (h : PortSound w p ps)
    (hw : ∀ k, (∃ b, (⟨p, k, b⟩ : WaitingSave) ∈ w') ↔ ∃ b, (⟨p, k, b⟩ : WaitingSave) ∈ w) : PortSound w' p ps where
  arrival := h.arrival
  answers := h.answers
  service := h.service
  waiting := fun k => (hw k).trans (h.waiting k)
  counts := h.counts
  detached := h.detached

/-- Counts and the READ in progress: R119, R128. -/
theorem PortSound.of_counts {w : List WaitingSave} {p : Port} {ps : PortState} (h : PortSound w p ps) {overrun badFrame : Nat}
    (hoverrun : overrun ≤ 255) (hbad : badFrame ≤ 255) (reading : Option ReadTransaction) :
    PortSound w p { ps with overrun := overrun, badFrame := badFrame, reading := reading } where
  arrival := h.arrival
  answers := h.answers
  service := h.service
  waiting := h.waiting
  counts := ⟨hoverrun, hbad⟩
  detached := h.detached

theorem satInc255_le (n : Nat) : satInc255 n ≤ 255 := Nat.min_le_right ..

/-! ### A port that is told something -/

/-- Between `ps` and `qs` a port may have been attached and its notices may have changed; a port that stays detached keeps
an empty notice unit. -/
structure PortState.Noted (ps qs : PortState) : Prop where
  rest : qs = { ps with attached := qs.attached, notices := qs.notices }
  attached : ps.attached = true → qs.attached = true
  notices : qs.attached = false → ps.notices = .empty → qs.notices = .empty

theorem PortState.Noted.refl (ps : PortState) : ps.Noted ps := ⟨rfl, fun h => h, fun _ h => h⟩

theorem PortState.Noted.trans {ps qs rs : PortState} (h : ps.Noted qs) (h' : qs.Noted rs) : ps.Noted rs where
  rest := by rw [h'.rest, h.rest]
  attached := fun ha => h'.attached (h.attached ha)
  notices := fun ha he => h'.notices ha (h.notices (by
    cases hq : qs.attached with
    | false => rfl
    | true => exact absurd (h'.attached hq) (by rw [ha]; decide)) he)

theorem PortState.noted_notices {ps : PortState} {n : NoticeUnit} (h : ps.attached = false → ps.notices = .empty → n = .empty) :
    ps.Noted { ps with notices := n } := ⟨rfl, fun ha => ha, h⟩

theorem PortSound.noted {w : List WaitingSave} {p : Port} {ps qs : PortState} (h : PortSound w p ps) (hn : ps.Noted qs) :
    PortSound w p qs := by
  obtain ⟨hrest, hatt, hnotices⟩ := hn
  have hdet : qs.attached = false → ps.attached = false := fun hq => by
    cases hp : ps.attached with
    | false => rfl
    | true => rw [hatt hp] at hq; exact hq
  have hslots : qs.slots = ps.slots := by rw [hrest]
  have hbase : PortSound w p { ps with attached := qs.attached, notices := qs.notices } :=
    { arrival := h.arrival
      answers := h.answers
      service := h.service
      waiting := h.waiting
      counts := h.counts
      detached := fun hq => ⟨hnotices hq (h.detached (hdet hq)).1, (h.detached (hdet hq)).2⟩ }
  rw [hrest]
  exact hbase

/-! ### A slot is changed -/

/-- What the orders and the waiting list say of one slot agrees with what stands in it. -/
structure SlotSound (waiting : List WaitingSave) (p : Port) (ps : PortState) (k : SlotNo) : Prop where
  arrival : k ∈ ps.arrival ↔ ∃ r, ps.slots.get k = .queued r
  answers : k ∈ ps.answers ↔ ∃ a, ps.slots.get k = .answered a
  service : ∀ r, ps.slots.get k ≠ .inService r
  waiting : (∃ b, (⟨p, k, b⟩ : WaitingSave) ∈ waiting) ↔ ∃ r, ps.slots.get k = .waiting r
  detached : ps.attached = false → ∀ r, ps.slots.get k ≠ .waiting r

theorem PortSound.slot {w : List WaitingSave} {p : Port} {ps : PortState} (h : PortSound w p ps) (k : SlotNo) :
    SlotSound w p ps k where
  arrival := h.arrival.2 k
  answers := h.answers.2 k
  service := h.service k
  waiting := h.waiting k
  detached := fun ha => (h.detached ha).2 k

section
variable {w w' : List WaitingSave} {p : Port} {ps qs : PortState}

/-- The slots of a port are sound one by one. -/
theorem portSound_of_slots (hslots : ∀ k, SlotSound w p ps k) (harrival : ps.arrival.Nodup) (hanswers : ps.answers.Nodup)
    (hcounts : ps.overrun ≤ 255 ∧ ps.badFrame ≤ 255) (hdetached : ps.attached = false → ps.notices = .empty) :
    PortSound w p ps where
  arrival := ⟨harrival, fun k => (hslots k).arrival⟩
  answers := ⟨hanswers, fun k => (hslots k).answers⟩
  service := fun k => (hslots k).service
  waiting := fun k => (hslots k).waiting
  counts := hcounts
  detached := fun ha => ⟨hdetached ha, fun k => (hslots k).detached ha⟩

/-- A slot that stands, with its place in the orders and on the waiting list. -/
theorem SlotSound.stands {k : SlotNo} (h : SlotSound w p ps k) (hslot : qs.slots.get k = ps.slots.get k)
    (harrival : k ∈ qs.arrival ↔ k ∈ ps.arrival) (hanswers : k ∈ qs.answers ↔ k ∈ ps.answers)
    (hwaiting : (∃ b, (⟨p, k, b⟩ : WaitingSave) ∈ w') ↔ ∃ b, (⟨p, k, b⟩ : WaitingSave) ∈ w)
    (hattached : qs.attached = ps.attached) : SlotSound w' p qs k where
  arrival := by rw [harrival, hslot]; exact h.arrival
  answers := by rw [hanswers, hslot]; exact h.answers
  service := by rw [hslot]; exact h.service
  waiting := by rw [hwaiting, hslot]; exact h.waiting
  detached := by rw [hattached, hslot]; exact h.detached

/-- R124, R126, R127: an ANSWERED slot stands in the answer order alone. -/
theorem slotSound_answered {k : SlotNo} {a : Answer} (hslot : qs.slots.get k = .answered a) (harrival : k ∉ qs.arrival)
    (hanswers : k ∈ qs.answers) (hwaiting : ∀ b, (⟨p, k, b⟩ : WaitingSave) ∉ w) : SlotSound w p qs k := by
  constructor <;> simp [hslot, harrival, hanswers, hwaiting]

theorem slotSound_queued {k : SlotNo} {r : Request} (hslot : qs.slots.get k = .queued r) (harrival : k ∈ qs.arrival)
    (hanswers : k ∉ qs.answers) (hwaiting : ∀ b, (⟨p, k, b⟩ : WaitingSave) ∉ w) : SlotSound w p qs k := by
  constructor <;> simp [hslot, harrival, hanswers, hwaiting]

theorem slotSound_waiting {k : SlotNo} {r : Request} {b : Binding} (hslot : qs.slots.get k = .waiting r)
    (harrival : k ∉ qs.arrival) (hanswers : k ∉ qs.answers) (hwaiting : (⟨p, k, b⟩ : WaitingSave) ∈ w)
    (hattached : qs.attached = true) : SlotSound w p qs k := by
  have hin : ∃ b, (⟨p, k, b⟩ : WaitingSave) ∈ w := ⟨b, hwaiting⟩
  constructor <;> simp [hslot, harrival, hanswers, hin, hattached]

theorem slotSound_free {k : SlotNo} (hslot : qs.slots.get k = .free) (harrival : k ∉ qs.arrival)
    (hanswers : k ∉ qs.answers) (hwaiting : ∀ b, (⟨p, k, b⟩ : WaitingSave) ∉ w) : SlotSound w p qs k := by
  constructor <;> simp [hslot, harrival, hanswers, hwaiting]

end

section
variable {w : List WaitingSave} {p : Port} {ps : PortState} {k : SlotNo} (h : PortSound w p ps)
include h

theorem PortSound.notMem_arrival (hslot : ∀ r, ps.slots.get k ≠ .queued r) : k ∉ ps.arrival :=
  fun hk => ((h.arrival.2 k).1 hk).elim hslot

theorem PortSound.notMem_answers (hslot : ∀ a, ps.slots.get k ≠ .answered a) : k ∉ ps.answers :=
  fun hk => ((h.answers.2 k).1 hk).elim hslot

theorem PortSound.notMem_waiting (hslot : ∀ r, ps.slots.get k ≠ .waiting r) (b : Binding) : (⟨p, k, b⟩ : WaitingSave) ∉ w :=
  fun hk => ((h.waiting k).1 ⟨b, hk⟩).elim hslot

/-- R124: a frame is queued in a FREE slot. -/
theorem PortSound.queue (hslot : ps.slots.get k = .free) (r : Request) :
    PortSound w p { ps with slots := ps.slots.set k (.queued r), arrival := ps.arrival ++ [k] } := by
  have harrival := h.notMem_arrival (k := k) (by simp [hslot])
  refine portSound_of_slots (fun j => ?_) (by simpa using h.arrival.1.concat harrival) h.answers.1 h.counts
    fun ha => (h.detached ha).1
  by_cases hj : j = k
  · subst hj
    exact slotSound_queued (Slots.get_set_self ..) (by simp) (h.notMem_answers (by simp [hslot]))
      (h.notMem_waiting (by simp [hslot]))
  · exact (h.slot j).stands (Slots.get_set_other _ _ hj) (by simp [hj]) Iff.rfl Iff.rfl rfl

/-- R136: while STARTING a frame is answered in a FREE slot. -/
theorem PortSound.answerFree (hslot : ps.slots.get k = .free) (a : Answer) : PortSound w p (ps.answerSlot k a) := by
  have hanswers := h.notMem_answers (k := k) (by simp [hslot])
  refine portSound_of_slots (fun j => ?_) h.arrival.1 (by simpa [PortState.answerSlot] using h.answers.1.concat hanswers)
    h.counts fun ha => (h.detached ha).1
  by_cases hj : j = k
  · subst hj
    exact slotSound_answered (Slots.get_set_self ..) (h.notMem_arrival (by simp [hslot])) (by simp [PortState.answerSlot])
      (h.notMem_waiting (by simp [hslot]))
  · exact (h.slot j).stands (Slots.get_set_other _ _ hj) Iff.rfl (by simp [PortState.answerSlot, hj]) Iff.rfl rfl

/-- R129: an answer is consumed and its slot is FREE. -/
theorem PortSound.consume {a : Answer} (hslot : ps.slots.get k = .answered a) : PortSound w p (ps.consume k) := by
  refine portSound_of_slots (fun j => ?_) h.arrival.1 (h.answers.1.filter _) h.counts fun ha => (h.detached ha).1
  by_cases hj : j = k
  · subst hj
    exact slotSound_free (Slots.get_set_self ..) (h.notMem_arrival (by simp [hslot])) (by simp [PortState.consume])
      (h.notMem_waiting (by simp [hslot]))
  · exact (h.slot j).stands (Slots.get_set_other _ _ hj) Iff.rfl (by simp [PortState.consume, hj]) Iff.rfl rfl

theorem PortSound.endRead (clocked : Nat) : PortSound w p (ps.endRead clocked) := by
  have hdone : PortSound w p { ps with reading := none } := h.of_counts h.counts.1 h.counts.2 none
  unfold PortState.endRead
  split
  · exact h
  · dsimp only
    split
    · exact hdone
    · split
      · next hconsumed => exact hdone.consume hconsumed.2
      · exact hdone

section
variable {r : Request} {rest : List SlotNo} (harrival : ps.arrival = k :: rest) (hslot : ps.slots.get k = .queued r)
include harrival hslot

/-- R8, R10, R126: the candidate is answered. -/
theorem PortSound.answer (a : Answer) :
    PortSound w p { ps with arrival := rest, slots := ps.slots.set k (.answered a), answers := ps.answers ++ [k] } := by
  have hnodup : k ∉ rest ∧ rest.Nodup := List.nodup_cons.1 (harrival ▸ h.arrival.1)
  have hanswers := h.notMem_answers (k := k) (by simp [hslot])
  refine portSound_of_slots (fun j => ?_) hnodup.2 (by simpa using h.answers.1.concat hanswers) h.counts
    fun ha => (h.detached ha).1
  by_cases hj : j = k
  · subst hj
    exact slotSound_answered (Slots.get_set_self ..) hnodup.1 (by simp) (h.notMem_waiting (by simp [hslot]))
  · exact (h.slot j).stands (Slots.get_set_other _ _ hj) (by simp [harrival, hj]) (by simp [hj]) Iff.rfl rfl

/-- R10, R142: the candidate of an attached port is left WAITING, and joins the waiting list. -/
theorem PortSound.wait (hattached : ps.attached = true) (b : Binding) :
    PortSound (w ++ [⟨p, k, b⟩]) p { ps with arrival := rest, slots := ps.slots.set k (.waiting r) } := by
  have hnodup : k ∉ rest ∧ rest.Nodup := List.nodup_cons.1 (harrival ▸ h.arrival.1)
  refine portSound_of_slots (fun j => ?_) hnodup.2 h.answers.1 h.counts fun ha => (h.detached ha).1
  by_cases hj : j = k
  · subst hj
    exact slotSound_waiting (b := b) (Slots.get_set_self ..) hnodup.1 (h.notMem_answers (by simp [hslot])) (by simp) hattached
  · exact (h.slot j).stands (Slots.get_set_other _ _ hj) (by simp [harrival, hj]) Iff.rfl (by simp [hj]) rfl

end

end

/-- R142: the SAVE of another port joins the waiting list. -/
theorem PortSound.wait_other {w : List WaitingSave} {p q : Port} {ps : PortState} (h : PortSound w q ps) (hq : q ≠ p)
    (k : SlotNo) (b : Binding) : PortSound (w ++ [⟨p, k, b⟩]) q ps :=
  h.of_waiting fun j => by simp [hq]

/-- R133, R142: the SAVEs of another port leave the waiting list. -/
theorem PortSound.free_other {w : List WaitingSave} {p q : Port} {ps : PortState} (h : PortSound w q ps) (hq : q ≠ p) :
    PortSound (w.filter fun x => decide (x.port ≠ p)) q ps :=
  h.of_waiting fun j => by simp [hq]

/-- R122: the port behind its own DETACH: its answer stands, and nothing else. -/
theorem portSound_detached {w : List WaitingSave} {p : Port} (hw : ∀ x ∈ w, x.port ≠ p) (k : SlotNo) (a : Answer)
    (reading : Option ReadTransaction) :
    PortSound w p
      { attached := false, slots := Slots.set ⟨.free, .free, .free, .free⟩ k (.answered a), arrival := [], answers := [k]
        overrun := 0, badFrame := 0, reading := reading, notices := ⟨[], [], false, 0⟩ } := by
  have hfree := (portSound_reset hw).of_counts (Nat.zero_le 255) (Nat.zero_le 255) reading
  exact hfree.answerFree (k := k) (by cases k <;> rfl) a

/-! ### The end of a snapshot (R142, R149, R150) -/

section
variable {s t : State} {result : ResultCode} {body : List Byte} {notices : PortState → NoticeUnit} {p : Port} {k : SlotNo}

/-- R142: a SAVE is bound to one snapshot alone. -/
theorem PortsSound.binding_unique (h : PortsSound s) {b b' : Binding} (hb : (⟨p, k, b⟩ : WaitingSave) ∈ s.snap.waiting)
    (hb' : (⟨p, k, b'⟩ : WaitingSave) ∈ s.snap.waiting) : b = b' := by
  have hinj := List.inj_on_of_nodup_map h.2 hb hb' rfl
  cases hinj
  rfl

/-- R142: the slots of port p whose SAVEs the end of a snapshot answers, in list order. -/
def Snapshot.dueSlots (n : Snapshot) (p : Port) : List SlotNo :=
  (n.waiting.filter fun w => decide (w.binding = .current) && decide (w.port = p)).map WaitingSave.slot

theorem Snapshot.mem_dueSlots {n : Snapshot} : k ∈ n.dueSlots p ↔ (⟨p, k, .current⟩ : WaitingSave) ∈ n.waiting := by
  simp only [Snapshot.dueSlots, List.mem_map, List.mem_filter, Bool.and_eq_true, decide_eq_true_eq]
  constructor
  · rintro ⟨⟨q, j, b⟩, ⟨hw, rfl, rfl⟩, rfl⟩
    exact hw
  · exact fun hw => ⟨_, ⟨hw, rfl, rfl⟩, rfl⟩

theorem PortsSound.dueSlots_nodup (h : PortsSound s) (p : Port) : (s.snap.dueSlots p).Nodup := by
  refine List.Nodup.map_on ?_ (List.Nodup.filter _ h.2.of_map)
  rintro ⟨q, j, b⟩ hw ⟨q', j', b'⟩ hw' hslot
  simp only [List.mem_filter, Bool.and_eq_true, decide_eq_true_eq] at hw hw'
  obtain ⟨-, rfl, rfl⟩ := hw
  obtain ⟨-, rfl, rfl⟩ := hw'
  cases hslot
  rfl

theorem SnapshotEnded.mem_waiting (he : SnapshotEnded s t result body notices) :
    (∃ b, (⟨p, k, b⟩ : WaitingSave) ∈ t.snap.waiting) ↔ (⟨p, k, .next⟩ : WaitingSave) ∈ s.snap.waiting := by
  simp only [he.waiting, List.mem_map, List.mem_filter, decide_eq_true_eq]
  constructor
  · rintro ⟨b, ⟨q, j, b'⟩, ⟨hw, rfl⟩, heq⟩
    cases heq
    exact hw
  · exact fun hw => ⟨_, _, ⟨hw, rfl⟩, rfl⟩

/-- R142, R149, R150: a slot whose SAVE the end of the snapshot answers. -/
theorem SnapshotEnded.slot_due (he : SnapshotEnded s t result body notices) (h : PortsSound s)
    (hdue : (⟨p, k, .current⟩ : WaitingSave) ∈ s.snap.waiting) : SlotSound t.snap.waiting p (t.ports.get p) k := by
  obtain ⟨r, hr⟩ := ((h.1 p).waiting k).1 ⟨_, hdue⟩
  have hport := he.ports p
  refine slotSound_answered (he.answered p k r hr hdue) ?_ ?_ fun b hb => ?_
  · rw [hport]
    exact (h.1 p).notMem_arrival (by simp [hr])
  · rw [hport]
    exact List.mem_append_right _ (Snapshot.mem_dueSlots.2 hdue)
  · exact absurd (h.binding_unique hdue (he.mem_waiting.1 ⟨b, hb⟩)) (by decide)

/-- R142: every other slot stands; a SAVE bound to the next snapshot stays on the list. -/
theorem SnapshotEnded.slot_kept (he : SnapshotEnded s t result body notices) (h : PortsSound s)
    (hdue : (⟨p, k, .current⟩ : WaitingSave) ∉ s.snap.waiting) : SlotSound t.snap.waiting p (t.ports.get p) k := by
  have hport := he.ports p
  refine ((h.1 p).slot k).stands (he.kept p k hdue) (by rw [hport]) ?_ ?_ (by rw [hport])
  · rw [hport]
    exact List.mem_append.trans (or_iff_left fun hk => hdue (Snapshot.mem_dueSlots.1 hk))
  · rw [he.mem_waiting]
    refine ⟨fun hw => ⟨_, hw⟩, fun ⟨b, hb⟩ => ?_⟩
    cases b with
    | current => exact absurd hb hdue
    | next => exact hb

/-- R149, R150: the ports are sound after the end of a snapshot that tells nothing to a detached port. -/
theorem SnapshotEnded.portsSound (he : SnapshotEnded s t result body notices) (h : PortsSound s)
    (hnotices : ∀ ps : PortState, ps.attached = false → notices ps = ps.notices) : PortsSound t := by
  refine ⟨fun p => ?_, ?_⟩
  · have hport := he.ports p
    have hp := h.1 p
    refine portSound_of_slots (fun k => ?_) (by rw [hport]; exact hp.arrival.1) ?_ (by rw [hport]; exact hp.counts) ?_
    · by_cases hdue : (⟨p, k, .current⟩ : WaitingSave) ∈ s.snap.waiting
      · exact he.slot_due h hdue
      · exact he.slot_kept h hdue
    · rw [hport]
      refine List.nodup_append.2 ⟨hp.answers.1, h.dueSlots_nodup p, fun j hj j' hj' heq => ?_⟩
      subst heq
      obtain ⟨r, hr⟩ := (hp.waiting j).1 ⟨_, Snapshot.mem_dueSlots.1 hj'⟩
      exact hp.notMem_answers (by simp [hr]) hj
    · rw [hport]
      exact fun ha => (hnotices (s.ports.get p) ha).trans (hp.detached ha).1
  · rw [he.waiting, List.map_map]
    exact h.2.sublist (List.filter_sublist.map _)

end

end Sys2Proof.Machine
end

section
/-!
SUPPORT. Changes that leave the slots, the orders and the waiting list as they are: what a request's own service, a job or a
timer does to the snapshot unit, the accrual block and the notices, and that every watched id keeps its entry.
-/
namespace Sys2Proof.Machine

/-! ### The snapshot unit between its operations (R138 to R144) -/

/-- R138 to R140, R143, R151: the requests, the counts and the autosave timer of the snapshot unit lie in their ranges. -/
structure Snapshot.InRange (n : Snapshot) : Prop where
  again : n.again = true → (n.phase = .writing ∨ n.phase = .verifying) ∧ 0 < n.changeCount
  requested : n.phase = .capturePending → 0 < n.changeCount
  changes : n.changeCount ≤ Config.max32 ∧ n.captured ≤ Config.max32
  generation : n.newestGen ≤ Config.max32
  interval : n.interval ≤ 1440
  autosave : ∀ left, n.autosave = some left → 1 ≤ n.interval ∧ left ≤ n.interval * 60 * Config.secondPeriods

/-- Between `n` and `m` no snapshot began, moved on or ended, and the requests and counts stayed in range. -/
structure Snapshot.Moves (n m : Snapshot) : Prop where
  writing : m.phase = .writing ↔ n.phase = .writing
  verifying : m.phase = .verifying ↔ n.phase = .verifying
  buffer : m.buffer = n.buffer
  target : m.target = n.target
  newestBank : m.newestBank = n.newestBank
  inRange : n.InRange → m.InRange

namespace Snapshot

theorem Moves.refl (n : Snapshot) : n.Moves n := ⟨Iff.rfl, Iff.rfl, rfl, rfl, rfl, fun h => h⟩

theorem Moves.trans {n m l : Snapshot} (h : n.Moves m) (h' : m.Moves l) : n.Moves l :=
  ⟨h'.writing.trans h.writing, h'.verifying.trans h.verifying, h'.buffer.trans h.buffer,
    h'.target.trans h.target, h'.newestBank.trans h.newestBank, fun hn => h'.inRange (h.inRange hn)⟩

/-- R139: the change count rises, and stays at its limit. -/
theorem moves_addChanges (n : Snapshot) (k : Nat) : n.Moves { n with changeCount := satAdd32 n.changeCount k } := by
  refine ⟨Iff.rfl, Iff.rfl, rfl, rfl, rfl, fun h => ?_⟩
  have hpos : 0 < n.changeCount → 0 < satAdd32 n.changeCount k := fun hc => by
    simp only [satAdd32, Config.max32]
    omega
  exact
    { again := fun ha => ⟨(h.again ha).1, hpos (h.again ha).2⟩
      requested := fun hp => hpos (h.requested hp)
      changes := ⟨satAdd32_le .., h.changes.2⟩
      generation := h.generation
      interval := h.interval
      autosave := h.autosave }

/-- R140, R141: a capture is requested while the unit is idle and changes are counted. -/
theorem moves_capturePending {n : Snapshot} (hidle : n.phase = .idle) (hc : n.changeCount ≠ 0) :
    n.Moves { n with phase := .capturePending } := by
  refine ⟨by simp [hidle], by simp [hidle], rfl, rfl, rfl, fun h => ?_⟩
  exact
    { again := fun ha => absurd (h.again ha).1 (by simp [hidle])
      requested := fun _ => Nat.pos_of_ne_zero hc
      changes := h.changes
      generation := h.generation
      interval := h.interval
      autosave := h.autosave }

/-- R140, R141: another capture is requested while a snapshot is in flight and changes are counted. -/
theorem moves_again {n : Snapshot} (hflight : n.phase = .writing ∨ n.phase = .verifying) (hc : n.changeCount ≠ 0) :
    n.Moves { n with again := true } :=
  ⟨Iff.rfl, Iff.rfl, rfl, rfl, rfl, fun h =>
    { again := fun _ => ⟨hflight, Nat.pos_of_ne_zero hc⟩
      requested := h.requested
      changes := h.changes
      generation := h.generation
      interval := h.interval
      autosave := h.autosave }⟩

theorem moves_request (n : Snapshot) : n.Moves n.request := by
  unfold Snapshot.request
  split
  · exact .refl n
  · next hc =>
    split
    · next hidle => exact moves_capturePending hidle hc
    · exact .refl n
    · next hw => exact moves_again (.inl hw) hc
    · next hv => exact moves_again (.inr hv) hc

theorem request_waiting (n : Snapshot) : n.request.waiting = n.waiting := by
  unfold Snapshot.request
  split
  · rfl
  · split <;> rfl

/-- R143, R144: the autosave timer is started with an interval in range. -/
theorem moves_settings (n : Snapshot) {interval : Nat} (hi : interval ≤ 1440) :
    n.Moves (Snapshot.startAutosave { n with interval := interval }) :=
  ⟨Iff.rfl, Iff.rfl, rfl, rfl, rfl, fun h =>
    { again := h.again
      requested := h.requested
      changes := h.changes
      generation := h.generation
      interval := hi
      autosave := fun left hleft => by
        simp only [Snapshot.startAutosave, autosavePeriods, Option.ite_none_left_eq_some, Option.some.injEq] at hleft
        obtain ⟨hne, rfl⟩ := hleft
        exact ⟨Nat.pos_of_ne_zero hne, Nat.le_refl _⟩ }⟩

theorem InRange.startAutosave {n : Snapshot} (h : n.InRange) : n.startAutosave.InRange :=
  (n.moves_settings h.interval).inRange h

theorem moves_startAutosave {n : Snapshot} : n.Moves n.startAutosave :=
  ⟨Iff.rfl, Iff.rfl, rfl, rfl, rfl, InRange.startAutosave⟩

/-- R143: the autosave timer counts one period. -/
theorem moves_clock (n : Snapshot) : n.Moves n.clock :=
  ⟨Iff.rfl, Iff.rfl, rfl, rfl, rfl, fun h =>
    { again := h.again
      requested := h.requested
      changes := h.changes
      generation := h.generation
      interval := h.interval
      autosave := fun left hleft => by
        simp only [Snapshot.clock, Option.map_eq_some_iff] at hleft
        obtain ⟨m, hm, rfl⟩ := hleft
        obtain ⟨hpos, hle⟩ := h.autosave m hm
        exact ⟨hpos, Nat.le_trans (Nat.sub_le ..) hle⟩ }⟩

end Snapshot

/-! ### The accrual block (R76, R77) -/

/-- R76, R77: the owed and pending seconds and the second timer lie in their ranges. -/
structure Accrual.InRange (a : Accrual) : Prop where
  owed : a.owedRun ≤ 65535 ∧ a.owedPowered ≤ 65535
  pending : a.pendRun ≤ 65535 ∧ a.pendPowered ≤ 65535
  second : a.secondTimer ≤ Config.secondPeriods

theorem satAdd16_le (a b : Nat) : satAdd16 a b ≤ 65535 := Nat.min_le_right ..

namespace Accrual.InRange
variable {a : Accrual} (h : a.InRange)
include h

theorem restart : Accrual.InRange { a with secondTimer := 0 } := ⟨h.owed, h.pending, Nat.zero_le _⟩

theorem tick (run : Bool) : (a.tick run).InRange := by
  refine ⟨⟨?_, satAdd16_le ..⟩, h.pending, h.second⟩
  unfold Accrual.tick
  dsimp only
  split
  · exact satAdd16_le ..
  · exact h.owed.1

theorem thaw : a.thaw.InRange := ⟨h.owed, h.pending, h.second⟩

theorem take : Accrual.InRange { a with candidate := false } := ⟨h.owed, h.pending, h.second⟩

theorem clearCounts : a.clearCounts.InRange := ⟨⟨Nat.zero_le _, Nat.zero_le _⟩, ⟨Nat.zero_le _, Nat.zero_le _⟩, h.second⟩

theorem holdOver : a.holdOver.InRange :=
  ⟨⟨Nat.zero_le _, Nat.zero_le _⟩, ⟨satAdd16_le .., satAdd16_le ..⟩, h.second⟩

end Accrual.InRange

/-! ### Notices (R92 to R95) -/

@[simp] theorem NoticeUnit.append_watch (n : NoticeUnit) (body : NoticeBody) : (n.append body).watch = n.watch := by
  unfold NoticeUnit.append
  split <;> rfl

@[simp] theorem NoticeUnit.onVerdict_watch (ev : VerdictEvent) (n : NoticeUnit) : (n.onVerdict ev).watch = n.watch := by
  unfold NoticeUnit.onVerdict
  split
  · split
    · rfl
    · split
      · rfl
      · exact n.append_watch _
  · rfl

@[simp] theorem NoticeUnit.retireQueue_watch (id score : Nat) (n : NoticeUnit) :
    (n.retireQueue id score).watch = n.watch := by
  unfold NoticeUnit.retireQueue
  split
  · rfl
  · split
    · split
      · rfl
      · exact n.append_watch _
    · rfl

@[simp] theorem NoticeUnit.foldl_onVerdict_watch (evs : List VerdictEvent) (n : NoticeUnit) :
    (evs.foldl (fun n ev => n.onVerdict ev) n).watch = n.watch := by
  induction evs generalizing n with
  | nil => rfl
  | cons ev evs ih => rw [List.foldl_cons, ih, NoticeUnit.onVerdict_watch]

/-- A port whose notice unit is told of something: nothing while it is detached, and its watch list does not grow. -/
structure PortState.Told (ps qs : PortState) : Prop where
  rest : qs = { ps with notices := qs.notices }
  detached : ps.attached = false → ps.notices = .empty → qs.notices = .empty
  watch : qs.notices.watch ⊆ ps.notices.watch

namespace PortState

theorem Told.refl (ps : PortState) : ps.Told ps := ⟨rfl, fun _ h => h, List.Subset.refl _⟩

theorem Told.trans {ps qs rs : PortState} (h : ps.Told qs) (h' : qs.Told rs) : ps.Told rs where
  rest := by rw [h'.rest, h.rest]
  detached := fun ha he => h'.detached (by rw [h.rest]; exact ha) (h.detached ha he)
  watch := List.Subset.trans h'.watch h.watch

theorem Told.noted {ps qs : PortState} (h : ps.Told qs) : ps.Noted qs where
  rest := by rw [h.rest]
  attached := fun ha => by rw [h.rest]; exact ha
  notices := fun ha => h.detached (by rw [h.rest] at ha; exact ha)

/-- R92, R94, R95: an attached port is told of an event. -/
theorem told_attached (ps : PortState) {n : NoticeUnit} (hn : n.watch = ps.notices.watch) :
    ps.Told { ps with notices := if ps.attached then n else ps.notices } := by
  refine ⟨rfl, fun ha he => ?_, ?_⟩
  · simp only [ha, Bool.false_eq_true, if_false, he]
  · dsimp only
    split
    · rw [hn]
      exact List.Subset.refl _
    · exact List.Subset.refl _

theorem told_noticesAfter (before after : Entry) (ps : PortState) :
    ps.Told { ps with notices := noticesAfter before after ps } := by
  unfold noticesAfter
  split
  · next h => exact ⟨rfl, fun ha => absurd ha (by rw [h.2]; decide), by simp⟩
  · exact .refl ps

end PortState

/-! ### Changes that no slot sees -/

/-- Between `s` and `t` the slots, the orders and the waiting list stood, no snapshot and no start-up moved on, and every
watched id kept its entry. -/
structure Calm (s t : State) : Prop where
  phase : t.phase = s.phase
  lastServed : t.lastServed = s.lastServed
  link : t.link = s.link
  startup : t.startup = s.startup
  pins : t.pins.resetN = s.pins.resetN ∧ t.pins.pfwN = s.pins.pfwN
  accrual : s.accrual.InRange → t.accrual.InRange
  snap : s.snap.Moves t.snap
  waiting : t.snap.waiting = s.snap.waiting
  ports : ∀ p, (s.ports.get p).Noted (t.ports.get p)
  watches : WatchesDefined s → WatchesDefined t

namespace Calm

theorem refl (s : State) : Calm s s :=
  ⟨rfl, rfl, rfl, rfl, ⟨rfl, rfl⟩, fun h => h, .refl _, rfl, fun _ => .refl _, fun h => h⟩

theorem trans {s t u : State} (h : Calm s t) (h' : Calm t u) : Calm s u :=
  ⟨h'.phase.trans h.phase, h'.lastServed.trans h.lastServed, h'.link.trans h.link, h'.startup.trans h.startup,
    ⟨h'.pins.1.trans h.pins.1, h'.pins.2.trans h.pins.2⟩, fun ha => h'.accrual (h.accrual ha), h.snap.trans h'.snap,
    h'.waiting.trans h.waiting,
    fun p => (h.ports p).trans (h'.ports p), fun hw => h'.watches (h.watches hw)⟩

end Calm

/-- Every entry that stood in the one table stands, perhaps changed, in the other. -/
def IdsKept (table table' : List Entry) : Prop :=
  ∀ id, (findEntry table id).isSome = true → (findEntry table' id).isSome = true

theorem IdsKept.refl (table : List Entry) : IdsKept table table := fun _ h => h

theorem IdsKept.trans {table table' table'' : List Entry} (h : IdsKept table table') (h' : IdsKept table' table'') :
    IdsKept table table'' := fun id hid => h' id (h id hid)

theorem idsKept_putEntry (table : List Entry) (e : Entry) : IdsKept table (putEntry table e) := by
  intro id hid
  by_cases h : id = e.id
  · subst h
    obtain ⟨old, hold⟩ := Option.isSome_iff_exists.1 hid
    rw [findEntry_putEntry_self hold]
    rfl
  · rwa [findEntry_putEntry_other _ _ h]

theorem idsKept_insertEntry {table : List Entry} {e : Entry} (hnew : findEntry table e.id = none) :
    IdsKept table (insertEntry e table) := by
  intro id hid
  have h : id ≠ e.id := fun h => by
    rw [h, hnew] at hid
    exact absurd hid (by decide)
  rwa [findEntry_insertEntry_other _ _ h]

theorem idsKept_dropOverride (table : List Entry) : IdsKept table (table.map Entry.dropOverride) := by
  intro id hid
  rwa [findEntry_dropOverride, Option.isSome_map]

/-- R84: the watch lists did not grow, and no entry went. -/
theorem watchesDefined_of {s t : State} (h : WatchesDefined s) (htable : IdsKept s.table t.table)
    (hwatch : ∀ p, (t.ports.get p).notices.watch ⊆ (s.ports.get p).notices.watch) : WatchesDefined t :=
  fun p id hid => htable id (h p id (hwatch p hid))

/-- A change of the table, the pool, the lines, the lease, the accrual block, the snapshot unit and the notices. -/
theorem calm_of {s t : State}
    (hrest : t = { s with
      table := t.table, pool := t.pool, urg := t.urg, pln := t.pln, lease := t.lease, accrual := t.accrual, snap := t.snap
      ports := t.ports })
    (haccrual : s.accrual.InRange → t.accrual.InRange) (hsnap : s.snap.Moves t.snap)
    (hwaiting : t.snap.waiting = s.snap.waiting) (hports : ∀ p, (s.ports.get p).Told (t.ports.get p))
    (htable : IdsKept s.table t.table) : Calm s t where
  phase := by rw [hrest]
  lastServed := by rw [hrest]
  link := by rw [hrest]
  startup := by rw [hrest]
  pins := ⟨by rw [hrest], by rw [hrest]⟩
  accrual := haccrual
  snap := hsnap
  waiting := hwaiting
  ports := fun p => (hports p).noted
  watches := fun hw => watchesDefined_of hw htable fun p => (hports p).watch

/-- R69, R73: a change of the table, the pool and the notices alone. -/
theorem ItemsFrame.calm {s t : State} (h : ItemsFrame s t) (hports : ∀ p, (s.ports.get p).Told (t.ports.get p))
    (htable : IdsKept s.table t.table) : Calm s t := by
  obtain ⟨hrest, -⟩ := h
  exact calm_of (by rw [hrest]) (fun ha => by rw [hrest]; exact ha) (by rw [hrest]; exact .refl _) (by rw [hrest]) hports htable

/-- R11: the change count and the lines follow a change of entries. -/
theorem Calm.counted {s t : State} (h : Calm s t) (n : Nat) : Calm s (t.addChanges n).refreshLines :=
  h.trans (calm_of (t := (t.addChanges n).refreshLines) rfl (fun ha => ha) (t.snap.moves_addChanges n) rfl (fun _ => .refl _)
    (.refl _))

theorem calm_snap (s : State) {n : Snapshot} (hn : s.snap.Moves n) (hwaiting : n.waiting = s.snap.waiting) :
    Calm s { s with snap := n } :=
  calm_of rfl (fun ha => ha) hn hwaiting (fun _ => .refl _) (.refl _)

theorem calm_accrual (s : State) {a : Accrual} (ha : s.accrual.InRange → a.InRange) : Calm s { s with accrual := a } :=
  calm_of rfl ha (.refl _) rfl (fun _ => .refl _) (.refl _)

theorem calm_lease (s : State) (l : Lease) : Calm s { s with lease := l } :=
  calm_of rfl (fun ha => ha) (.refl _) rfl (fun _ => .refl _) (.refl _)

/-- R95: a system event reaches the attached ports. -/
theorem calm_systemEvent (s : State) (ev : SystemEvent) : Calm s (s.systemEvent ev) :=
  calm_of rfl (fun ha => ha) (.refl _) rfl (fun p => by
    rw [State.systemEvent_get]
    exact PortState.told_attached _ (NoticeUnit.append_watch ..)) (.refl _)

theorem calm_replaceEntry (s : State) (pool : List EpochRecord) (before after : Entry) :
    Calm s (State.replaceEntry { s with pool := pool } before after) :=
  (itemsFrame_replaceEntry s pool before after).calm (fun p => by
    rw [State.replaceEntry_get]
    exact PortState.told_noticesAfter before after _) (by
    rw [State.replaceEntry_table]
    exact idsKept_putEntry s.table after)

/-- R56, R113: the end of the lease. -/
theorem calm_endLease (s : State) (reason : LeaseEndReason) : Calm s (s.endLease reason) := by
  cases hh : s.lease.holder with
  | none =>
    rw [State.endLease_none s reason hh]
    exact .refl s
  | some p =>
    have heq := State.endLease_eq s reason hh
    refine calm_of (by rw [heq]) (fun ha => by rw [heq]; exact ha) (by rw [heq]; exact .refl _) (by rw [heq]) (fun q => ?_) ?_
    · rw [State.endLease_get s reason hh]
      exact PortState.told_attached _ (by simp)
    · rw [heq]
      exact idsKept_dropOverride s.table

/-- R85, R86, R98, R99: an attached port's own request changes its notice unit; every id it watches has an entry. -/
theorem calm_modifyNotices {s : State} {p : Port} (hatt : (s.ports.get p).attached = true) (f : NoticeUnit → NoticeUnit)
    (hwatch : WatchesDefined s → ∀ id ∈ (f (s.ports.get p).notices).watch, (findEntry s.table id).isSome = true) :
    Calm s (s.modifyNotices p f) where
  phase := rfl
  lastServed := rfl
  link := rfl
  startup := rfl
  pins := ⟨rfl, rfl⟩
  accrual := fun ha => ha
  snap := .refl _
  waiting := rfl
  ports := fun q => by
    rw [State.modifyNotices, State.modifyPort_get]
    split
    · next hq =>
      subst hq
      exact PortState.noted_notices fun ha => absurd ha (by rw [hatt]; decide)
    · exact .refl _
  watches := fun hw q id hid => by
    rw [State.modifyNotices, State.modifyPort_get] at hid
    split at hid
    · exact hwatch hw id hid
    · exact hw q id hid

/-! ### The services of the requests -/

theorem calm_serviceDefine (id : Nat) (f : Fields) (s : State) : Calm s (s.serviceDefine id f).1 := by
  unfold State.serviceDefine
  split
  · exact .refl s
  · next d hd =>
    split
    · exact .refl s
    · next hnew =>
      split
      · exact .refl s
      · split
        · exact .refl s
        · have hnone : findEntry s.table id = none := by simpa using hnew
          refine Calm.counted (calm_of ?_ ?_ ?_ ?_ (fun p => ?_) ?_) 1
          · unfold State.publish
            split <;> rfl
          · exact fun ha => by rw [State.publish_accrual]; exact ha
          · rw [State.publish_snap]
            exact .refl _
          · rw [State.publish_snap]
          · rw [State.publish_get]
            exact PortState.told_noticesAfter ..
          · rw [State.publish_table]
            exact idsKept_insertEntry (e := (newEntry s.table id d).evaluate false) hnone

theorem calm_serviceAmend (id : Nat) (f : Fields) (s : State) : Calm s (s.serviceAmend id f).1 := by
  unfold State.serviceAmend
  split
  · exact .refl s
  · split
    · exact .refl s
    · split
      · exact .refl s
      · split
        · exact (calm_replaceEntry s s.pool _ _).counted 1
        · exact .refl s

/-- R19, R94: the retired id leaves the table and every watch list. -/
theorem watchesDefined_retire {s : State} (h : WatchesDefined s) (id score : Nat) (pool : List EpochRecord) :
    WatchesDefined (State.retirementEvent { s with table := removeEntry s.table id, pool := pool } id score) := by
  intro p i hi
  rw [State.retirementEvent_get] at hi
  obtain ⟨hin, hne⟩ := NoticeUnit.mem_unwatch.1 hi
  rw [State.retirementEvent_table, findEntry_removeEntry_other _ hne]
  refine h p i ?_
  split at hin
  · rwa [NoticeUnit.retireQueue_watch] at hin
  · exact hin

theorem calm_serviceRetire (id : Nat) (s : State) : Calm s (s.serviceRetire id).1 := by
  unfold State.serviceRetire
  split
  · exact .refl s
  · next e _ =>
    refine Calm.counted ?_ 1
    exact
      { phase := rfl
        lastServed := rfl
        link := rfl
        startup := rfl
        pins := ⟨rfl, rfl⟩
        accrual := fun ha => ha
        snap := .refl _
        waiting := rfl
        ports := fun p => by
          rw [State.retirementEvent_get]
          exact PortState.noted_notices fun ha he => by
            have hdet : (s.ports.get p).attached = false := ha
            have hempty : (s.ports.get p).notices = .empty := he
            simp only [hdet, hempty, Bool.false_eq_true, if_false]
            rfl
        watches := fun hw => watchesDefined_retire hw id e.score _ }

theorem calm_serviceRenew (id : Nat) (s : State) : Calm s (s.serviceRenew id).1 := by
  unfold State.serviceRenew
  split
  · exact .refl s
  · exact (calm_replaceEntry s _ _ _).counted 1

theorem calm_serviceDescribe (id : Nat) (s : State) : Calm s (s.serviceDescribe id).1 := by
  unfold State.serviceDescribe
  split <;> exact .refl s

theorem calm_serviceClear (id : Nat) (s : State) : Calm s (s.serviceClear id).1 := by
  unfold State.serviceClear
  split
  · exact .refl s
  · split
    · exact (calm_replaceEntry s s.pool _ _).counted 1
    all_goals exact .refl s

theorem calm_refreshLines (s : State) : Calm s s.refreshLines :=
  calm_of rfl (fun ha => ha) (.refl _) rfl (fun _ => .refl _) (.refl _)

theorem calm_serviceOverride (id value : Nat) (s : State) : Calm s (s.serviceOverride id value).1 := by
  unfold State.serviceOverride
  split
  · exact .refl s
  · exact .refl s
  · exact (calm_replaceEntry s s.pool _ _).trans (calm_refreshLines _)

theorem calm_applyItem (s : State) (i : Item) : Calm s (s.applyItem i).1 := by
  unfold State.applyItem
  split
  · exact .refl s
  · split
    · exact .refl s
    · split
      · exact calm_replaceEntry s s.pool _ _
      · exact calm_replaceEntry s _ _ _
      all_goals exact .refl s

theorem calm_applyItems (s : State) (items : List Item) : Calm s (s.applyItems items).1 := by
  induction items generalizing s with
  | nil => exact .refl s
  | cons i is ih => exact (calm_applyItem s i).trans (ih _)

theorem calm_serviceReport (p : Port) (items : List Item) (s : State) : Calm s (s.serviceReport p items).1 := by
  unfold State.serviceReport
  split
  · exact .refl s
  · exact (calm_applyItems s items).counted _

section
variable {s : State} {p : Port} (hatt : (s.ports.get p).attached = true)
include hatt

theorem calm_serviceWatch (id : Nat) : Calm s (s.serviceWatch p id).1 := by
  unfold State.serviceWatch
  dsimp only
  split
  · exact .refl s
  · next e hfind =>
    split
    · exact .refl s
    · split
      · exact .refl s
      · refine calm_modifyNotices hatt (fun n => { n with watch := insertId id n.watch }) fun hw i hi => ?_
        rcases mem_insertId.1 hi with rfl | hi
        · rw [hfind]
          rfl
        · exact hw p i hi

theorem calm_serviceUnwatch (id : Nat) : Calm s (s.serviceUnwatch p id).1 :=
  calm_modifyNotices hatt _ fun hw i hi => hw p i (NoticeUnit.mem_unwatch.1 hi).1

theorem calm_serviceFetch : Calm s (s.serviceFetch p).1 := calm_modifyNotices hatt _ fun hw i hi => hw p i hi

theorem calm_serviceAck (seq : Nat) : Calm s (s.serviceAck p seq).1 := by
  unfold State.serviceAck
  dsimp only
  split
  · exact .refl s
  · next i _ => exact calm_modifyNotices hatt (fun n => { n with queue := n.queue.drop (i + 1) }) fun hw i hi => hw p i hi

end

theorem calm_serviceClaim (p : Port) (duration : Nat) (s : State) : Calm s (s.serviceClaim p duration).1 := by
  unfold State.serviceClaim
  split
  · exact .refl s
  · split
    · exact calm_lease s _
    · exact .refl s

theorem calm_serviceRelease (p : Port) (s : State) : Calm s (s.serviceRelease p).1 := by
  unfold State.serviceRelease
  split
  · exact calm_endLease s .released
  · exact .refl s

theorem calm_serviceSave (s : State) : Calm s s.serviceSave.1 := by
  unfold State.serviceSave
  split
  · next hidle =>
    split
    · exact .refl s
    · next hc => exact calm_snap s (Snapshot.moves_capturePending hidle hc) rfl
  · exact .refl s
  · next hw =>
    split
    · exact .refl s
    · next hc => exact calm_snap s (Snapshot.moves_again (.inl hw) hc) rfl
  · next hv =>
    split
    · exact .refl s
    · next hc => exact calm_snap s (Snapshot.moves_again (.inr hv) hc) rfl

theorem calm_serviceSettings (interval : Nat) (s : State) : Calm s (s.serviceSettings interval).1 := by
  unfold State.serviceSettings
  split
  · exact .refl s
  · next hi =>
    exact (calm_snap s (s.snap.moves_settings (Nat.not_lt.1 hi)) rfl).trans
      (calm_snap _ (Snapshot.moves_addChanges _ 1) rfl)

theorem calm_serviceAttach (p : Port) (s : State) : Calm s (s.serviceAttach p).1 where
  phase := rfl
  lastServed := rfl
  link := rfl
  startup := rfl
  pins := ⟨rfl, rfl⟩
  accrual := fun ha => ha
  snap := .refl _
  waiting := rfl
  ports := fun q => by
    rw [State.serviceAttach, State.modifyPort_get]
    split
    · next hq =>
      subst hq
      exact ⟨rfl, fun _ => rfl, fun ha => nomatch ha⟩
    · exact .refl _
  watches := fun hw q id hid => by
    rw [State.serviceAttach, State.modifyPort_get] at hid
    split at hid
    · next hq =>
      subst hq
      exact hw q id hid
    · exact hw q id hid

/-! ### The accrual job -/

theorem calm_visit (a : Accrual) (s : State) (e : Entry) : Calm s (s.visit a e) := by
  unfold State.visit
  split
  · exact .refl s
  · exact calm_replaceEntry s s.pool e _

theorem calm_accrueAll (s : State) : Calm s s.accrueAll := by
  have hvisits : Calm s (s.table.foldl (State.visit s.accrual) s) :=
    List.foldlRecOn s.table (State.visit s.accrual) (.refl s) fun t ht e _ => ht.trans (calm_visit s.accrual t e)
  have haccrual : (s.table.foldl (State.visit s.accrual) s).accrual = s.accrual := by rw [State.visits_eq]
  refine Calm.counted (hvisits.trans (calm_accrual _ fun ha => ?_)) _
  rw [haccrual] at ha ⊢
  exact ha.clearCounts

end Sys2Proof.Machine
end

section
/-!
SUPPORT. The arbiter's choice (R9, R12), and which port it counts as served: the service of every request but DETACH leaves the
slots to the arbiter, and no internal job and no port reset names another port.
-/
namespace Sys2Proof.Machine

/-! ### The choice (R9, R12) -/

section
variable {s : State}

theorem arbiterChoice_starting (hp : s.phase = .starting) : s.arbiterChoice = none := by
  rw [State.arbiterChoice, hp]

theorem arbiterChoice_served (hp : s.phase ≠ .starting) :
    s.arbiterChoice = if s.snap.phase = .capturePending then some .capture
      else if s.accrual.candidate then some .accrual else s.portChoice := by
  unfold State.arbiterChoice
  cases hphase : s.phase with
  | starting => exact absurd hphase hp
  | running => rfl
  | frozen => rfl

theorem served_of_choice {g : Grant} (h : s.arbiterChoice = some g) : s.phase ≠ .starting := fun hp => by
  rw [arbiterChoice_starting hp] at h
  cases h

theorem capturePending_of_choice (h : s.arbiterChoice = some .capture) : s.snap.phase = .capturePending := by
  rw [arbiterChoice_served (served_of_choice h)] at h
  split at h
  · next hc => exact hc
  · split at h
    · cases h
    · obtain ⟨p, -, hp⟩ := List.exists_of_findSome?_eq_some h
      obtain ⟨x, -, hx⟩ := Option.map_eq_some_iff.1 hp
      cases hx

/-- R9: the cyclic order that follows a port. -/
theorem portsAfter_eq (p : Port) :
    ([Port.p0, .p1, .p2, .p3, .p0, .p1, .p2, .p3].drop (portCode p + 1)).take 4 = portsAfter p := by cases p <;> rfl

/-- R9: the first port with a candidate is chosen. -/
theorem portChoice_first {before after : List Port} {p : Port} {k : SlotNo} {r : Request}
    (horder : portsAfter s.lastServed = before ++ p :: after)
    (hbefore : ∀ q ∈ before, (s.ports.get q).oldestQueued = none) (hp : (s.ports.get p).oldestQueued = some (k, r)) :
    s.portChoice = some (.request p k r) := by
  have hnone : before.findSome? s.portCandidate = none := List.findSome?_eq_none_iff.2 fun q hq => by
    rw [State.portCandidate, hbefore q hq, Option.map_none]
  have hsome : s.portCandidate p = some (.request p k r) := by rw [State.portCandidate, hp, Option.map_some]
  rw [State.portChoice, horder, List.findSome?_append, hnone, Option.none_or, List.findSome?_cons, hsome]

theorem portChoice_none (h : ∀ p, (s.ports.get p).oldestQueued = none) : s.portChoice = none :=
  List.findSome?_eq_none_iff.2 fun p _ => by rw [State.portCandidate, h p, Option.map_none]

end

/-! ### The port served last -/

/-- R10: the service of every request but DETACH is calm where the checks at grant let it. -/
theorem exec_grantCommand_calm (p : Port) {c : RequestCode} (hc : c ≠ .detach) :
    ∃ (α : Type) (decode : List Byte → Option α) (service : State → SlotNo → α → State × Reply),
      (∀ s, exec (grantCommand p c) s = .next (s.serve p c decode service)) ∧
        ∀ t k x, (c ≠ .attach → (t.ports.get p).attached = true) → Calm t (service t k x).1 := by
  cases c with
  | detach => exact absurd rfl hc
  | attach => exact ⟨_, _, _, fun _ => rfl, fun t _ _ _ => calm_serviceAttach p t⟩
  | define => exact ⟨_, _, _, fun _ => rfl, fun t _ x _ => calm_serviceDefine x.1 x.2 t⟩
  | amend => exact ⟨_, _, _, fun _ => rfl, fun t _ x _ => calm_serviceAmend x.1 x.2 t⟩
  | retire => exact ⟨_, _, _, fun _ => rfl, fun t _ id _ => calm_serviceRetire id t⟩
  | renew => exact ⟨_, _, _, fun _ => rfl, fun t _ id _ => calm_serviceRenew id t⟩
  | describe => exact ⟨_, _, _, fun _ => rfl, fun t _ id _ => calm_serviceDescribe id t⟩
  | list => exact ⟨_, _, _, fun _ => rfl, fun t _ _ _ => .refl t⟩
  | clear => exact ⟨_, _, _, fun _ => rfl, fun t _ id _ => calm_serviceClear id t⟩
  | override => exact ⟨_, _, _, fun _ => rfl, fun t _ x _ => calm_serviceOverride x.1 x.2 t⟩
  | report => exact ⟨_, _, _, fun _ => rfl, fun t _ items _ => calm_serviceReport p items t⟩
  | watch => exact ⟨_, _, _, fun _ => rfl, fun t _ id ha => calm_serviceWatch (ha (by decide)) id⟩
  | unwatch => exact ⟨_, _, _, fun _ => rfl, fun t _ id ha => calm_serviceUnwatch (ha (by decide)) id⟩
  | fetch => exact ⟨_, _, _, fun _ => rfl, fun t _ _ ha => calm_serviceFetch (ha (by decide))⟩
  | ack => exact ⟨_, _, _, fun _ => rfl, fun t _ seq ha => calm_serviceAck (ha (by decide)) seq⟩
  | claim => exact ⟨_, _, _, fun _ => rfl, fun t _ duration _ => calm_serviceClaim p duration t⟩
  | release => exact ⟨_, _, _, fun _ => rfl, fun t _ _ _ => calm_serviceRelease p t⟩
  | save => exact ⟨_, _, _, fun _ => rfl, fun t _ _ _ => calm_serviceSave t⟩
  | settings => exact ⟨_, _, _, fun _ => rfl, fun t _ interval _ => calm_serviceSettings interval t⟩

/-- R9: a granted request makes its port the last-served one, when its service leaves that. -/
theorem State.serve_lastServed {s : State} {p : Port} {c : RequestCode} {k : SlotNo} {r : Request} (hg : Granted s p c k r)
    (decode : List Byte → Option α) {service : State → SlotNo → α → State × Reply}
    (hservice : ∀ t k x, (c ≠ .attach → (t.ports.get p).attached = true) → (service t k x).1.lastServed = t.lastServed) :
    (s.serve p c decode service).lastServed = p := by
  rw [State.serve, State.grantRequest_granted hg, State.endService_lastServed]
  unfold State.checked
  split
  · rfl
  · next x hf hd =>
    refine hservice _ k x fun hc => State.attached_of_passes ?_ (requestRow_exemptAttached hc)
    rwa [hd, Option.isSome_some] at hf
  · rfl

theorem exec_grantCommand_lastServed {s : State} {p : Port} {c : RequestCode} {k : SlotNo} {r : Request}
    (hg : Granted s p c k r) : ∃ t, exec (grantCommand p c) s = .next t ∧ t.lastServed = p := by
  by_cases hc : c = .detach
  · subst hc
    exact ⟨_, rfl, State.serve_lastServed hg bodyNone fun t k _ _ => State.resetPort_lastServed t p (some k)⟩
  · obtain ⟨α, decode, service, hexec, hcalm⟩ := exec_grantCommand_calm p hc
    exact ⟨_, hexec s, State.serve_lastServed hg decode fun t k x ha => (hcalm t k x ha).lastServed⟩

theorem exec_captureJob_lastServed (s : State) : ∃ t, exec .captureJob s = .next t ∧ t.lastServed = s.lastServed := by
  refine ⟨_, rfl, ?_⟩
  split
  all_goals rfl

theorem exec_accrualJob_lastServed (s : State) : ∃ t, exec .accrualJob s = .next t ∧ t.lastServed = s.lastServed := by
  refine ⟨_, rfl, ?_⟩
  split
  · dsimp only
    split
    · exact (calm_accrueAll s.takeJob).lastServed
    all_goals rfl
  all_goals rfl

/-- Settles O5: the choice is `arbiterChoice_served`; who is served last is `exec_grantCommand_lastServed` for a grant. -/
theorem arbiterChoosesInOrder : Obligations.ArbiterChoosesInOrder := by
  refine fun s => ⟨arbiterChoice_starting, fun hp hc => ?_, fun hp hc ha => ?_, fun hp hc ha => ⟨?_, fun hnone => ?_⟩,
    fun p c k r hg => exec_grantCommand_lastServed hg, ?_⟩
  · rw [arbiterChoice_served hp, if_pos hc]
  · rw [arbiterChoice_served hp, if_neg hc, if_pos ha]
  · intro before p after k r horder hbefore hcandidate
    rw [arbiterChoice_served hp, if_neg hc, ha, if_neg Bool.false_ne_true]
    exact portChoice_first ((portsAfter_eq s.lastServed).symm.trans horder) hbefore hcandidate
  · rw [arbiterChoice_served hp, if_neg hc, ha, if_neg Bool.false_ne_true]
    exact portChoice_none hnone
  · rintro c (rfl | rfl | ⟨p, rfl⟩)
    · exact exec_captureJob_lastServed s
    · exact exec_accrualJob_lastServed s
    · exact ⟨_, exec_portReset s p, State.resetPort_lastServed ..⟩

end Sys2Proof.Machine
end

section
/-!
SUPPORT. The part as it works between two events: the parts of soundness that no other invariant covers, taken together, with
the grants, the timers, the power-fail and reset inputs and the frames of the ports.
-/
namespace Sys2Proof.Machine

/-! ### What stands between two events -/

/-- R160, R162 to R164, R166: the link is IDLE exactly without an operation, its timer runs exactly in the waits and has not
counted past its end, and only an erase or program is waited for in BUSY_WAIT. -/
structure Link.WellFormed (l : Link) : Prop where
  idle : l.op = none ↔ l.phase = .idle
  timer : l.timer.isSome = true ↔ l.phase = .readyWait ∨ l.phase = .busyWait
  busy : ∀ o, l.op = some o → l.phase = .busyWait → o.op.writes = true
  timeout : ∀ t, l.timer = some t → t.count ≤ t.limit ∧ (t.limit = Config.longLimit ∨ t.limit = Config.programLimit)

/-- Phase, start-up, snapshot unit, link and accrual block fit together; table and ports are no part of it. -/
structure Engine (s : State) : Prop where
  held : s.pins.resetN = true → s.phase = .starting ∧ s.link.op = none
  frozen : s.phase ≠ .starting → (s.phase = .frozen ↔ s.pins.pfwN = true) ∧ s.startup.outcome.isSome = true
  done : s.startup.step = .done ↔ s.phase ≠ .starting
  link : s.link.WellFormed
  op : ∀ o, s.link.op = some o → o.Sound s
  flight : s.snap.phase = .writing ∨ s.snap.phase = .verifying → s.link.op.isSome = true
  snap : s.snap.InRange
  accrual : s.accrual.InRange
  starting : s.phase = .starting →
    s.snap = .reset ∧ s.accrual = { Accrual.reset with secondTimer := s.accrual.secondTimer }

/-- R2, R136: while STARTING the table is empty and no port is attached. -/
def BlankWhileStarting (s : State) : Prop :=
  s.phase = .starting → s.table = [] ∧ ∀ p, (s.ports.get p).attached = false

/-- The part between two events, but for lines, lease, table, entries, pool and queues. -/
structure Working (s : State) : Prop where
  ports : PortsSound s
  watches : WatchesDefined s
  blank : BlankWhileStarting s
  engine : Engine s

theorem Sound.working {s : State} (h : Sound s) : Working s where
  ports := h.ports
  watches := h.watches
  blank := h.phase.2.1
  engine :=
    { held := h.snapshot.reset
      frozen := h.phase.2.2.1
      done := h.phase.2.2.2
      link := ⟨h.snapshot.idle, h.snapshot.timer, h.snapshot.busy, h.counts.timeout⟩
      op := h.snapshot.op
      flight := h.snapshot.flight
      snap := ⟨h.snapshot.again, h.snapshot.requested, h.counts.changes, h.counts.generation, h.counts.interval,
        h.counts.autosave⟩
      accrual := ⟨h.counts.owed, h.counts.pending, h.counts.second⟩
      starting := fun hp => ⟨h.snapshot.starting hp, h.counts.starting hp⟩ }

section
variable {s : State} (h : Working s)
include h

theorem Working.phaseSound : PhaseSound s :=
  ⟨fun hr => (h.engine.held hr).1, h.blank, h.engine.frozen, h.engine.done⟩

theorem Working.snapshotSound : SnapshotSound s where
  idle := h.engine.link.idle
  timer := h.engine.link.timer
  busy := h.engine.link.busy
  op := h.engine.op
  flight := h.engine.flight
  again := h.engine.snap.again
  requested := h.engine.snap.requested
  starting := fun hp => (h.engine.starting hp).1
  reset := h.engine.held

theorem Working.countsSound : CountsSound s where
  owed := h.engine.accrual.owed
  pending := h.engine.accrual.pending
  starting := fun hp => (h.engine.starting hp).2
  second := h.engine.accrual.second
  changes := h.engine.snap.changes
  generation := h.engine.snap.generation
  interval := h.engine.snap.interval
  autosave := h.engine.snap.autosave
  timeout := h.engine.link.timeout

end

/-- The parts of soundness are those of `Working` and the ones that the steps keep by themselves. -/
theorem Working.sound {s : State} (h : Working s) (hlines : LinesFollow s) (hlease : LeaseSound s) (hstock : Stocked s)
    (hnotices : NoticesSound s) : Sound s :=
  ⟨hlines, hlease, hstock.table, hstock.entries, hstock.pool, h.ports, hnotices, h.phaseSound, h.snapshotSound,
    h.countsSound, h.watches⟩

/-! ### Calm changes -/

/-- R161: the operation in hand still fits when no snapshot and no start-up has moved on. -/
theorem LinkOp.Sound.moved {s t : State} {o : LinkOp} (h : o.Sound s) (hphase : t.phase = s.phase)
    (hstartup : t.startup = s.startup) (hreset : t.pins.resetN = s.pins.resetN) (hsnap : s.snap.Moves t.snap) :
    o.Sound t := by
  obtain ⟨hrange, hclient⟩ := h
  refine ⟨hrange, ?_⟩
  cases hc : o.client with
  | startup =>
    rw [hc] at hclient
    simpa only [hphase, hstartup, hreset] using hclient
  | snapshot =>
    rw [hc] at hclient
    obtain ⟨hp, hflight, hrest⟩ := hclient
    refine ⟨by rwa [hphase], ?_, by rwa [hsnap.target, hsnap.newestBank, hsnap.buffer]⟩
    cases hw : o.op.writes with
    | true =>
      rw [hw] at hflight
      exact hsnap.writing.2 hflight
    | false =>
      rw [hw] at hflight
      exact hsnap.verifying.2 hflight

theorem Engine.moved {s t : State} (h : Engine s) (hphase : t.phase = s.phase) (hlink : t.link = s.link)
    (hstartup : t.startup = s.startup) (hpins : t.pins.resetN = s.pins.resetN ∧ t.pins.pfwN = s.pins.pfwN)
    (hsnap : s.snap.Moves t.snap) (haccrual : s.accrual.InRange → t.accrual.InRange)
    (hstart : s.phase = .starting → t.snap = s.snap ∧
      t.accrual = { s.accrual with secondTimer := t.accrual.secondTimer }) : Engine t where
  held := by rw [hpins.1, hphase, hlink]; exact h.held
  frozen := by rw [hpins.2, hphase, hstartup]; exact h.frozen
  done := by rw [hphase, hstartup]; exact h.done
  link := by rw [hlink]; exact h.link
  op := fun o ho => (h.op o (hlink ▸ ho)).moved hphase hstartup hpins.1 hsnap
  flight := by rw [hsnap.writing, hsnap.verifying, hlink]; exact h.flight
  snap := hsnap.inRange h.snap
  accrual := haccrual h.accrual
  starting := fun hp => by
    rw [hphase] at hp
    obtain ⟨hn, ha⟩ := hstart hp
    obtain ⟨hreset, hrest⟩ := h.starting hp
    exact ⟨hn.trans hreset, ha.trans (by rw [hrest])⟩

/-- R2, R82, R138: what a change may do while STARTING. -/
structure Idle (s t : State) : Prop where
  table : s.table = [] → t.table = []
  attached : ∀ p, (t.ports.get p).attached = (s.ports.get p).attached
  snap : t.snap = s.snap
  accrual : t.accrual = { s.accrual with secondTimer := t.accrual.secondTimer }

theorem Working.calm {s t : State} (h : Working s) (hc : Calm s t) (hstart : s.phase = .starting → Idle s t) :
    Working t where
  ports := by
    refine ⟨fun p => ?_, ?_⟩
    · rw [hc.waiting]
      exact (h.ports.1 p).noted (hc.ports p)
    · rw [hc.waiting]
      exact h.ports.2
  watches := hc.watches h.watches
  blank := fun hp => by
    rw [hc.phase] at hp
    obtain ⟨htable, hatt⟩ := h.blank hp
    exact ⟨(hstart hp).table htable, fun p => ((hstart hp).attached p).trans (hatt p)⟩
  engine := h.engine.moved hc.phase hc.link hc.startup hc.pins hc.snap hc.accrual fun hp =>
    ⟨(hstart hp).snap, (hstart hp).accrual⟩

theorem Working.calm_served {s t : State} (h : Working s) (hc : Calm s t) (hp : s.phase ≠ .starting) : Working t :=
  h.calm hc fun hstart => absurd hstart hp

/-! ### Grants (R8 to R10) -/

theorem watchesDefined_begin {s : State} (h : WatchesDefined s) (p : Port) (k : SlotNo) (r : Request) :
    WatchesDefined (s.beginService p k r) := fun q id hid => by
  rw [State.beginService_notices] at hid
  exact h q id hid

theorem Snapshot.moves_waiting (n : Snapshot) (waiting : List WaitingSave) : n.Moves { n with waiting := waiting } :=
  ⟨Iff.rfl, Iff.rfl, rfl, rfl, rfl, fun h => ⟨h.again, h.requested, h.changes, h.generation, h.interval, h.autosave⟩⟩

/-- R10: the ports between the grant and the end of the service, each as it was before the grant. -/
theorem noted_of_calm {s t : State} {p : Port} {k : SlotNo} {r : Request} (hc : Calm (s.beginService p k r) t) (q : Port) :
    ((if q = p then
        { s.ports.get p with
          arrival := (s.ports.get p).arrival.tail, slots := (s.ports.get p).slots.set k (.inService r) }
      else s.ports.get q) : PortState).Noted (t.ports.get q) := by
  have hq := hc.ports q
  rwa [State.beginService_get] at hq

section
variable {s t : State} {p : Port} {k : SlotNo} {r : Request} (h : Working s)
  (hchoice : s.arbiterChoice = some (.request p k r)) (hc : Calm (s.beginService p k r) t)
include h hchoice hc

/-- R10, R126: the ports after a grant that is answered. -/
theorem portsSound_answer (result : ResultCode) (body : List Byte) :
    PortsSound (t.endService p k r (.answer result body)) := by
  obtain ⟨-, -, -, hcandidate⟩ := arbiterChoice_request hchoice
  obtain ⟨⟨rest, harrival⟩, hslot⟩ := PortState.oldestQueued_some hcandidate
  have hwaiting : (t.endService p k r (.answer result body)).snap.waiting = s.snap.waiting := hc.waiting
  refine ⟨fun q => ?_, hwaiting ▸ h.ports.2⟩
  rw [hwaiting, State.endService_answer_get]
  have hq := noted_of_calm hc q
  by_cases hqp : q = p
  · subst hqp
    rw [if_pos rfl] at hq ⊢
    obtain ⟨hrest, hatt, hnotices⟩ := hq
    have hanswered := (h.ports.1 q).answer harrival hslot ⟨r.tag, r.code, result, body⟩
    refine hanswered.noted ⟨?_, hatt, hnotices⟩
    rw [hrest]
    simp only [PortState.answerSlot, Slots.set_set, harrival, List.tail_cons]
  · rw [if_neg hqp] at hq ⊢
    exact (h.ports.1 q).noted hq

/-- R10, R142: the ports after a grant that leaves its request WAITING. -/
theorem portsSound_wait (hattached : (s.ports.get p).attached = true) (b : Binding) :
    PortsSound (t.endService p k r (.wait b)) := by
  obtain ⟨-, -, -, hcandidate⟩ := arbiterChoice_request hchoice
  obtain ⟨⟨rest, harrival⟩, hslot⟩ := PortState.oldestQueued_some hcandidate
  have hwaiting : (t.endService p k r (.wait b)).snap.waiting = s.snap.waiting ++ [⟨p, k, b⟩] :=
    congrArg (· ++ [(⟨p, k, b⟩ : WaitingSave)]) hc.waiting
  refine ⟨fun q => ?_, ?_⟩
  · rw [hwaiting, State.endService_wait_get]
    have hq := noted_of_calm hc q
    by_cases hqp : q = p
    · subst hqp
      rw [if_pos rfl] at hq ⊢
      obtain ⟨hrest, hatt, hnotices⟩ := hq
      refine ((h.ports.1 q).wait harrival hslot hattached b).noted ⟨?_, hatt, hnotices⟩
      rw [hrest]
      simp only [Slots.set_set, harrival, List.tail_cons]
    · rw [if_neg hqp] at hq ⊢
      exact ((h.ports.1 q).noted hq).wait_other hqp k b
  · have hnew : (p, k) ∉ s.snap.waiting.map fun w => (w.port, w.slot) := fun hin => by
      obtain ⟨⟨q, j, b'⟩, hw, heq⟩ := List.mem_map.1 hin
      cases heq
      exact (h.ports.1 q).notMem_waiting (by simp [hslot]) b' hw
    rw [hwaiting, List.map_append]
    simpa using h.ports.2.concat hnew

/-- R10: a grant, when its service is calm. -/
theorem Working.grant {reply : Reply} (hattached : ∀ b, reply = .wait b → (s.ports.get p).attached = true) :
    Working (t.endService p k r reply) := by
  obtain ⟨hphase, -⟩ := arbiterChoice_request hchoice
  have hblank : BlankWhileStarting (t.endService p k r reply) := fun hp => by
    rw [State.endService_phase, hc.phase] at hp
    exact absurd hp hphase
  have hwatches : WatchesDefined t := hc.watches (watchesDefined_begin h.watches p k r)
  have hengine := h.engine
  cases reply with
  | answer result body =>
    refine ⟨portsSound_answer h hchoice hc result body, fun q id hid => hwatches q id ?_, hblank,
      hengine.moved hc.phase hc.link hc.startup hc.pins hc.snap hc.accrual fun hp => absurd hp hphase⟩
    rw [State.endService_answer_get] at hid
    split at hid
    · next hq =>
      subst hq
      exact hid
    · exact hid
  | wait b =>
    refine ⟨portsSound_wait h hchoice hc (hattached b rfl) b, fun q id hid => hwatches q id ?_, hblank,
      hengine.moved hc.phase hc.link hc.startup hc.pins (hc.snap.trans (t.snap.moves_waiting _)) hc.accrual
        fun hp => absurd hp hphase⟩
    rw [State.endService_wait_get] at hid
    split at hid
    · next hq =>
      subst hq
      exact hid
    · exact hid

end

/-- R13: no refusal leaves a request WAITING. -/
theorem State.checkFailure_ne_wait (s : State) (p : Port) (c : RequestCode) (decoded : Bool) (b : Binding) :
    s.checkFailure p c decoded ≠ some (.wait b) := by
  intro hf
  unfold State.checkFailure at hf
  split at hf
  · cases hf
  · split at hf
    · cases hf
    · split at hf
      · cases hf
      · split at hf <;> cases hf

/-- R13: a request whose service is calm where the checks at grant let it. Only an attached port's request is left WAITING. -/
theorem Working.serve {s : State} (h : Working s) {p : Port} {c : RequestCode} {decode : List Byte → Option α}
    {service : State → SlotNo → α → State × Reply}
    (hservice : ∀ t k x, (c ≠ .attach → (t.ports.get p).attached = true) → Calm t (service t k x).1)
    (hattach : c = .attach → ∀ t k x b, (service t k x).2 ≠ .wait b) : Working (s.serve p c decode service) := by
  rcases s.serve_cases p c decode service with heq | ⟨k, r, hg, ⟨reply, hf, heq⟩ | ⟨x, -, hf, heq⟩⟩
  · rwa [heq]
  · rw [heq]
    exact h.grant hg.1 (.refl _) fun b hb => absurd (hb ▸ hf) (State.checkFailure_ne_wait _ p _ _ b)
  · have hatt : c ≠ .attach → ((s.beginService p k r).ports.get p).attached = true := fun hc =>
      State.attached_of_passes hf (requestRow_exemptAttached hc)
    rw [heq]
    refine h.grant hg.1 (hservice _ k x hatt) fun b hb => ?_
    by_cases hc : c = .attach
    · exact absurd hb (hattach hc _ _ _ b)
    · have hp := hatt hc
      rwa [State.beginService_attached] at hp

theorem Working.unknownRequestCode {s : State} (h : Working s) (p : Port) :
    ∀ t, exec (.unknownRequestCode p) s = .next t → Working t := by
  rintro _ ⟨⟩
  unfold State.grantRequest
  split
  · next q k r hchoice =>
    split
    · next hq =>
      obtain ⟨rfl, -⟩ := hq
      exact h.grant hchoice (.refl _) fun b hb => nomatch hb
    · exact h
  all_goals exact h

/-! ### DETACH and port resets (R122, R133) -/

/-- R114, R133: what a port reset leaves of everything but its port and the waiting list. -/
structure ResetFrame (s t : State) (p : Port) : Prop where
  phase : t.phase = s.phase
  link : t.link = s.link
  startup : t.startup = s.startup
  accrual : t.accrual = s.accrual
  ids : IdsKept s.table t.table
  table : s.table = [] → t.table = []
  others : ∀ q, q ≠ p → (s.ports.get q).Told (t.ports.get q)

theorem noticesAfterLeaseEnd_watch (table : List Entry) (former : Port) (reason : LeaseEndReason) (ps : PortState) :
    ps.Told { ps with notices := noticesAfterLeaseEnd table former reason ps } :=
  PortState.told_attached ps (by simp)

theorem PortResetAround.frame {s t : State} {p : Port} (h : PortResetAround s t p) : ResetFrame s t p := by
  by_cases hh : s.lease.holder = some p
  · obtain ⟨⟨-, htable, -, hphase, -, haccrual, hlink, hstart, -, -⟩, hothers⟩ := h.holder hh
    refine ⟨hphase, hlink, hstart, haccrual, ?_, fun hnil => by rw [htable, hnil, List.map_nil], fun q hq => ?_⟩
    · rw [htable]
      exact idsKept_dropOverride s.table
    · rw [hothers q hq]
      exact noticesAfterLeaseEnd_watch ..
  · obtain ⟨-, htable, -, -, hphase, -, haccrual, hlink, hstart, -, -, hothers⟩ := h.other hh
    refine ⟨hphase, hlink, hstart, haccrual, ?_, fun hnil => htable.trans hnil, fun q hq => ?_⟩
    · rw [htable]
      exact .refl _
    · rw [hothers q hq]
      exact .refl _

theorem Working.portReset {s t : State} (h : Working s) {p : Port} (hr : PortResetAround s t p)
    (hpins : t.pins.resetN = s.pins.resetN ∧ t.pins.pfwN = s.pins.pfwN)
    (hport : PortSound (s.snap.waiting.filter fun w => decide (w.port ≠ p)) p (t.ports.get p))
    (hdetached : (t.ports.get p).attached = false) : Working t := by
  have hf := hr.frame
  have hwaiting : t.snap.waiting = s.snap.waiting.filter fun w => decide (w.port ≠ p) := by rw [hr.snap]
  have hempty : (t.ports.get p).notices = .empty := (hport.detached hdetached).1
  refine ⟨⟨fun q => ?_, ?_⟩, fun q id hid => ?_, fun hp => ?_, ?_⟩
  · rw [hwaiting]
    by_cases hq : q = p
    · exact hq ▸ hport
    · exact ((h.ports.1 q).noted (hf.others q hq).noted).free_other hq
  · rw [hwaiting]
    exact h.ports.2.sublist (List.filter_sublist.map _)
  · by_cases hq : q = p
    · subst hq
      rw [hempty] at hid
      exact absurd hid List.not_mem_nil
    · exact hf.ids id (h.watches q id ((hf.others q hq).watch hid))
  · rw [hf.phase] at hp
    obtain ⟨htable, hatt⟩ := h.blank hp
    refine ⟨hf.table htable, fun q => ?_⟩
    by_cases hq : q = p
    · exact hq ▸ hdetached
    · rw [(hf.others q hq).rest]
      exact hatt q
  · refine h.engine.moved hf.phase hf.link hf.startup hpins ?_ (fun ha => by rwa [hf.accrual]) fun hp => ⟨?_, ?_⟩
    · rw [hr.snap]
      exact s.snap.moves_waiting _
    · rw [hr.snap, (h.engine.starting hp).1]
      rfl
    · rw [hf.accrual]

theorem Working.detach {s : State} (h : Working s) (p : Port) : ∀ t, exec (.detach p) s = .next t → Working t := by
  intro t ht
  rcases s.serve_cases p .detach bodyNone (fun t k _ => (t.resetPort p (some k), .code .ok)) with
    heq | ⟨k, r, hg, ⟨reply, hf, heq⟩ | ⟨x, hbody, hf, -⟩⟩
  · cases ht
    rwa [heq]
  · cases ht
    rw [heq]
    exact h.grant hg.1 (.refl _) fun b hb => absurd (hb ▸ hf) (State.checkFailure_ne_wait _ p _ _ b)
  · have hatt : (s.ports.get p).attached = true := by
      have := State.attached_of_passes hf rfl
      rwa [State.beginService_attached] at this
    have hnone : r.body = [] := by
      cases hb : r.body with
      | nil => rfl
      | cons b bs =>
        rw [hb] at hbody
        cases hbody
    have hadm : Admitted s p .detach k r := ⟨hg, fun _ => hatt, fun hc => by simp [heldRequests] at hc,
      fun hc => by simp [frozenRequests] at hc⟩
    obtain ⟨u, hexec, -, hpins, hget, haround⟩ := detachResetsItsPort s p k r hadm hnone
    obtain rfl : u = t := by
      rw [hexec] at ht
      cases ht
      rfl
    refine h.portReset haround ⟨by rw [hpins], by rw [hpins]⟩ ?_ (by rw [hget])
    rw [hget]
    exact portSound_detached (by simp) k _ _

theorem Working.prstAssert {s : State} (h : Working s) (p : Port) : ∀ t, exec (.portReset p) s = .next t → Working t := by
  intro t ht
  obtain ⟨u, hexec, -, hpins, -, -, hget, -, haround⟩ := (portResetFreesThePort s p).1
  obtain rfl : u = t := by
    rw [hexec] at ht
    cases ht
    rfl
  refine h.portReset haround ⟨by rw [hpins], by rw [hpins]⟩ ?_ (by rw [hget])
  rw [hget]
  exact portSound_reset (by simp)

/-- R10: every grant of a request with a known code. -/
theorem Working.request {s : State} (h : Working s) (p : Port) (c : RequestCode) :
    ∀ t, exec (grantCommand p c) s = .next t → Working t := by
  intro t ht
  by_cases hattach : c = .attach
  · subst hattach
    cases ht
    exact h.serve (fun t _ _ _ => calm_serviceAttach p t) fun _ _ _ _ _ hb => nomatch hb
  · by_cases hdetach : c = .detach
    · subst hdetach
      exact h.detach p t ht
    · obtain ⟨α, decode, service, hexec, hcalm⟩ := exec_grantCommand_calm p hdetach
      rw [hexec] at ht
      cases ht
      exact h.serve hcalm fun hc => absurd hc hattach

/-! ### Jobs, timers and power-fail -/

section
variable {s : State} (h : Working s)
include h

/-- R78, R80: the accrual job, granted while no start-up is under way. -/
theorem Working.accrualJob : ∀ t, exec .accrualJob s = .next t → Working t := by
  rintro _ ⟨⟩
  split
  · next hchoice =>
    have htake : Calm s s.takeJob := calm_accrual s fun ha => ha.take
    have hp := served_of_choice hchoice
    dsimp only
    split
    · exact h.calm_served (htake.trans (calm_accrueAll s.takeJob)) hp
    · exact h.calm_served (htake.trans (calm_accrual s.takeJob fun ha => ha.holdOver)) hp
    · exact h.calm_served htake hp
  all_goals exact h

/-- R76, R77: a second tick; while STARTING the timer alone starts again. -/
theorem Working.secondTick (run : Bool) : ∀ t, exec (.secondTick run) s = .next t → Working t := by
  rintro _ ⟨⟩
  split
  · exact h
  · dsimp only
    split
    · exact h.calm (calm_accrual s fun ha => ha.restart) fun _ => ⟨fun ht => ht, fun _ => rfl, rfl, rfl⟩
    all_goals
      next hp => exact h.calm_served (calm_accrual s fun ha => ha.restart.tick run) (by rw [hp]; decide)

/-- R111, R113: while STARTING the end of a lease would find an empty table and no attached port. -/
theorem Working.endLease (reason : LeaseEndReason) : Working (s.endLease reason) := by
  refine h.calm (calm_endLease s reason) fun _ =>
    ⟨fun ht => ?_, fun p => State.endLease_attached s reason p, by simp, by simp⟩
  cases hh : s.lease.holder with
  | none => rwa [State.endLease_none s reason hh]
  | some p => rw [State.endLease_eq s reason hh, ht, List.map_nil]

theorem Working.leaseUnitComplete : ∀ t, exec .leaseUnitComplete s = .next t → Working t := by
  rintro _ ⟨⟩
  split
  · exact h
  · split
    · exact h.endLease .expired
    · exact h.calm (calm_lease s _) fun _ => ⟨fun ht => ht, fun _ => rfl, rfl, rfl⟩

theorem Working.leaseExpiry : ∀ t, exec .leaseExpiry s = .next t → Working t := by
  rintro _ ⟨⟩
  split
  · exact h.endLease .expired
  · exact h

/-- R143: while STARTING the autosave timer is stopped. -/
theorem Working.autosaveExpiry : ∀ t, exec .autosaveExpiry s = .next t → Working t := by
  rintro _ ⟨⟩
  split
  · next hsome =>
    have hp : s.phase ≠ .starting := fun hp => by
      rw [(h.engine.starting hp).1] at hsome
      cases hsome
    refine h.calm_served (calm_snap s (s.snap.moves_request.trans Snapshot.moves_startAutosave)
      (Snapshot.request_waiting s.snap)) hp
  · exact h

/-- R154, R156: the phase follows PFW_N once start-up has ended. -/
theorem Working.setPfw {phase : DevicePhase} {pfwN : Bool} (hstart : phase = .starting ↔ s.phase = .starting)
    (hphase : phase ≠ .starting → (phase = .frozen ↔ pfwN = true)) :
    Working { s with phase := phase, pins := { s.pins with pfwN := pfwN } } where
  ports := h.ports
  watches := h.watches
  blank := fun hp => h.blank (hstart.1 hp)
  engine :=
    { held := fun hr => ⟨hstart.2 (h.engine.held hr).1, (h.engine.held hr).2⟩
      frozen := fun hp => ⟨hphase hp, (h.engine.frozen fun hs => hp (hstart.2 hs)).2⟩
      done := h.engine.done.trans (not_congr hstart.symm)
      link := h.engine.link
      op := fun o ho => by
        obtain ⟨hrange, hclient⟩ := h.engine.op o ho
        refine ⟨hrange, ?_⟩
        cases hc : o.client with
        | snapshot =>
          rw [hc] at hclient
          exact ⟨fun hp => hclient.1 (hstart.1 hp), hclient.2⟩
        | startup =>
          rw [hc] at hclient
          exact ⟨hstart.2 hclient.1, hclient.2⟩
      flight := h.engine.flight
      snap := h.engine.snap
      accrual := h.engine.accrual
      starting := fun hp => h.engine.starting (hstart.1 hp) }

theorem Working.pfwAssert : ∀ t, exec .pfwAssert s = .next t → Working t := by
  rintro _ ⟨⟩
  dsimp only
  split
  · next hp =>
    have hfrozen := h.setPfw (phase := .frozen) (pfwN := true) (by simp [hp]) (by simp)
    exact hfrozen.calm_served ((calm_systemEvent _ .frozenEntered).trans
      (calm_snap _ (Snapshot.moves_request _) (Snapshot.request_waiting _))) (by simp)
  · next hp => exact h.setPfw Iff.rfl fun hne => absurd hp hne
  · next hp => exact h.setPfw Iff.rfl fun _ => by simp [hp]

theorem Working.pfwDeassert : ∀ t, exec .pfwDeassert s = .next t → Working t := by
  rintro _ ⟨⟩
  dsimp only
  split
  · next hp =>
    have hrunning := h.setPfw (phase := .running) (pfwN := false) (by simp [hp]) (by simp)
    exact hrunning.calm_served ((calm_systemEvent _ .frozenLeft).trans (calm_accrual _ fun ha => ha.thaw)) (by simp)
  · next hp => exact h.setPfw Iff.rfl fun hne => absurd hp hne
  · next hp => exact h.setPfw Iff.rfl fun _ => by simp [hp]

theorem Working.prstDeassert (p : Port) : ∀ t, exec (.prstDeassert p) s = .next t → Working t := by
  rintro _ ⟨⟩
  exact h.calm
    { phase := rfl
      lastServed := rfl
      link := rfl
      startup := rfl
      pins := ⟨rfl, rfl⟩
      accrual := fun ha => ha
      snap := .refl _
      waiting := rfl
      ports := fun _ => .refl _
      watches := fun hw => hw }
    fun _ => ⟨fun ht => ht, fun _ => rfl, rfl, rfl⟩

/-! ### Frames and READ transactions (R118, R123, R124, R128, R129, R132) -/

/-- A change of one port's slots, orders, counts or READ in progress. -/
theorem Working.modifyPort (p : Port) {f : PortState → PortState}
    (hport : PortSound s.snap.waiting p (f (s.ports.get p)))
    (hattached : (f (s.ports.get p)).attached = (s.ports.get p).attached)
    (hnotices : (f (s.ports.get p)).notices = (s.ports.get p).notices) : Working (s.modifyPort p f) where
  ports := by
    refine ⟨fun q => ?_, h.ports.2⟩
    rw [State.modifyPort_get]
    split
    · next hq => exact hq ▸ hport
    · exact h.ports.1 q
  watches := fun q id hid => by
    rw [State.modifyPort_get] at hid
    split at hid
    · next hq =>
      subst hq
      exact h.watches q id (hnotices ▸ hid)
    · exact h.watches q id hid
  blank := fun hp => by
    obtain ⟨htable, hatt⟩ := h.blank hp
    refine ⟨htable, fun q => ?_⟩
    rw [State.modifyPort_get]
    split
    · rw [hattached]
      exact hatt p
    · exact hatt q
  engine := h.engine.moved rfl rfl rfl ⟨rfl, rfl⟩ (.refl _) (fun ha => ha) fun _ => ⟨rfl, rfl⟩

theorem Working.refreshLease (p : Port) : Working (s.refreshLease p) := by
  unfold State.refreshLease
  split
  · exact h.calm (calm_lease s _) fun _ => ⟨fun ht => ht, fun _ => rfl, rfl, rfl⟩
  · exact h

theorem Working.countBadFrame (p : Port) : Working (s.countBadFrame p) :=
  h.modifyPort p ((h.ports.1 p).of_counts (h.ports.1 p).counts.1 (satInc255_le _) (s.ports.get p).reading) rfl rfl

theorem Working.arrive (p : Port) (r : Request) : Working (s.arrive p r) := by
  have hport := h.ports.1 p
  cases hfree : (s.ports.get p).slots.lowestFree with
  | none =>
    rw [State.arrive_overrun hfree]
    exact h.modifyPort p (hport.of_counts (satInc255_le _) hport.counts.2 (s.ports.get p).reading) rfl rfl
  | some k =>
    have hslot := Slots.lowestFree_get hfree
    by_cases hp : s.phase = .starting
    · rw [State.arrive_starting hfree hp]
      exact h.modifyPort p (hport.answerFree hslot _) rfl rfl
    · rw [State.arrive_queued hfree hp]
      exact (h.modifyPort p (hport.queue hslot r) rfl rfl).refreshLease p

theorem Working.frameArrival (p : Port) (bytes : List Byte) : ∀ t, exec (.frameArrival p bytes) s = .next t → Working t := by
  rintro _ ⟨⟩
  split
  · split
    · exact h.arrive p _
    · exact h.countBadFrame p
  · exact h

theorem Working.invalidSelectEnd (p : Port) : ∀ t, exec (.invalidSelectEnd p) s = .next t → Working t := by
  rintro _ ⟨⟩
  split
  · exact h.countBadFrame p
  · exact h

theorem Working.readSelect (p : Port) : ∀ t, exec (.readSelect p) s = .next t → Working t := by
  rintro _ ⟨⟩
  split
  · exact h.modifyPort p ((h.ports.1 p).of_counts (h.ports.1 p).counts.1 (h.ports.1 p).counts.2 _) rfl rfl
  · exact h

theorem Working.readEnd (p : Port) (clocked : Nat) : ∀ t, exec (.readEnd p clocked) s = .next t → Working t := by
  rintro _ ⟨⟩
  exact h.modifyPort p ((h.ports.1 p).endRead clocked) (PortState.endRead_attached ..) (PortState.endRead_notices ..)

end

end Sys2Proof.Machine
end

section
/-!
SUPPORT. The memory link and its two clients: the sequences of a snapshot and its end, start-up and its end, device reset, and
one REFCLK period.
-/
namespace Sys2Proof.Machine

/-! ### The link (R160 to R166) -/

namespace Link

theorem wellFormed_hand (l : Link) (o : LinkOp) : (l.hand o).WellFormed where
  idle := by simp [Link.hand]
  timer := by simp [Link.hand]
  busy := fun _ _ hphase => by simp [Link.hand] at hphase
  timeout := fun t ht => by
    cases ht
    exact ⟨Nat.zero_le _, .inl rfl⟩

theorem AtRest.wellFormed {l : Link} (h : l.AtRest) : l.WellFormed := by
  obtain ⟨hphase, hop, htimer⟩ := h
  constructor <;> simp [hphase, hop, htimer]

namespace WellFormed

theorem sent {l : Link} (h : l.WellFormed) (bytes : List Byte) (writeEnabled : Bool) :
    WellFormed { l with mdo := bytes, writeEnabled := writeEnabled } := ⟨h.idle, h.timer, h.busy, h.timeout⟩

/-- R162: a status without the busy bit ends the ready wait. -/
theorem command {l : Link} {o : LinkOp} (hop : l.op = some o) (bytes : List Byte) :
    WellFormed { l with mdo := bytes, phase := .command, timer := none } := by
  constructor <;> simp [hop]

/-- R163, R164: the command of an erase or program has been sent. -/
theorem startBusyWait {l : Link} {o : LinkOp} (hop : l.op = some o) (hwrites : o.op.writes = true) {limit : Nat}
    (hlimit : limit = Config.longLimit ∨ limit = Config.programLimit) (bytes : List Byte) :
    (l.startBusyWait limit bytes).WellFormed where
  idle := by simp [Link.startBusyWait, hop]
  timer := by simp [Link.startBusyWait]
  busy := fun o' ho' _ => by
    obtain rfl : o = o' := Option.some.inj (hop.symm.trans ho')
    exact hwrites
  timeout := fun t ht => by
    cases ht
    exact ⟨Nat.zero_le _, hlimit⟩

/-- R162, R166: the timer counts a period while it stands below its limit. -/
theorem clock {l : Link} (h : l.WellFormed) (hdue : ∀ t, l.timer = some t → t.count < t.limit) : l.clock.WellFormed where
  idle := h.idle
  timer := by
    rw [Link.clock, Option.isSome_map]
    exact h.timer
  busy := h.busy
  timeout := fun t ht => by
    obtain ⟨t', ht', rfl⟩ := Option.map_eq_some_iff.1 ht
    exact ⟨hdue t' ht', (h.timeout t' ht').2⟩

end WellFormed
end Link

/-- R162 to R166: the link moves on with its operation in hand. -/
theorem Working.withLink {s : State} (h : Working s) {l : Link} (hl : l.WellFormed) (hop : l.op = s.link.op) :
    Working (s.withLink l) where
  ports := h.ports
  watches := h.watches
  blank := h.blank
  engine :=
    { held := fun hr => ⟨(h.engine.held hr).1, hop.trans (h.engine.held hr).2⟩
      frozen := h.engine.frozen
      done := h.engine.done
      link := hl
      op := fun o ho => h.engine.op o (hop ▸ ho)
      flight := fun hf => by
        show l.op.isSome = true
        rw [hop]
        exact h.engine.flight hf
      snap := h.engine.snap
      accrual := h.engine.accrual
      starting := h.engine.starting }

/-- The link as its operation ends. -/
theorem State.linkIdle_eq (s : State) :
    s.linkIdle = s.withLink { s.link with phase := .idle, op := none, writeEnabled := false, timer := none } := rfl

/-! ### A snapshot in flight (R146 to R150) -/

/-- R146 to R148, R161: a snapshot is being written or verified. -/
structure InFlight (s : State) : Prop where
  served : s.phase ≠ .starting
  flight : s.snap.phase = .writing ∨ s.snap.phase = .verifying
  bank : s.snap.newestBank ≠ some s.snap.target
  buffer : s.snap.buffer.isSome = true

/-- R161: an operation of the snapshot unit belongs to the snapshot in flight. -/
theorem LinkOp.Sound.inFlight {s : State} {o : LinkOp} (h : o.Sound s) (hc : o.client = .snapshot) :
    InFlight s ∧ s.snap.phase = if o.op.writes then .writing else .verifying := by
  obtain ⟨-, hclient⟩ := h
  rw [hc] at hclient
  obtain ⟨hp, hphase, htarget, hbank, hbuffer⟩ := hclient
  refine ⟨⟨hp, ?_, htarget ▸ hbank, hbuffer⟩, hphase⟩
  rw [hphase]
  split
  · exact .inl rfl
  · exact .inr rfl

theorem Snapshot.InRange.inFlight {n : Snapshot} (h : n.InRange) {phase : SnapPhase}
    (hphase : phase = .writing ∨ phase = .verifying) (attempt : Attempt) :
    Snapshot.InRange { n with phase := phase, attempt := attempt } where
  again := fun ha => ⟨hphase, (h.again ha).2⟩
  requested := fun hp => by
    rcases hphase with rfl | rfl <;> cases hp
  changes := h.changes
  generation := h.generation
  interval := h.interval
  autosave := h.autosave

/-- R149 to R151: the snapshot unit after the end of a snapshot. -/
theorem Snapshot.InRange.ended {n : Snapshot} (hn : n.InRange) : n.rebind.startAutosave.afterEnd.InRange := by
  have hauto : n.rebind.startAutosave.InRange := ((n.moves_waiting _).inRange hn).startAutosave
  unfold Snapshot.afterEnd
  split
  · next hagain =>
    exact
      { again := fun ha => nomatch ha
        requested := fun _ => (hauto.again hagain).2
        changes := hauto.changes
        generation := hauto.generation
        interval := hauto.interval
        autosave := hauto.autosave }
  · next hagain =>
    exact
      { again := fun ha => absurd ha hagain
        requested := fun hp => nomatch hp
        changes := hauto.changes
        generation := hauto.generation
        interval := hauto.interval
        autosave := hauto.autosave }

/-- R175, R176: the snapshot unit after the end of start-up. -/
theorem Snapshot.inRange_startWith (outcome : StartOutcome) (bank : Option Bank) {generation interval : Nat}
    (hgen : generation ≤ Config.max32) (hinterval : interval ≤ 1440) :
    (Snapshot.reset.startWith outcome bank generation interval).InRange := by
  refine Snapshot.InRange.startAutosave ?_
  exact
    { again := fun ha => nomatch ha
      requested := fun hp => nomatch hp
      changes := ⟨by dsimp only; cases outcome <;> decide, Nat.zero_le _⟩
      generation := hgen
      interval := hinterval
      autosave := fun _ hleft => nomatch hleft }

section
variable {s : State} (h : Working s)
include h

/-- R145, R147, R148, R161: the snapshot unit hands its next operation to the link. -/
theorem Working.hand (hp : s.phase ≠ .starting) {n : Snapshot} {op : FlashOp} (hwaiting : n.waiting = s.snap.waiting)
    (hphase : n.phase = if op.writes then .writing else .verifying) (hrange : op.inRange)
    (hbank : n.newestBank ≠ some n.target) (hbuffer : n.buffer.isSome = true) (hn : n.InRange) (l : Link) :
    Working { s with snap := n, link := l.hand ⟨op, n.target, .snapshot⟩ } where
  ports := by
    refine ⟨fun p => ?_, ?_⟩
    · show PortSound n.waiting p (s.ports.get p)
      rw [hwaiting]
      exact h.ports.1 p
    · show (n.waiting.map _).Nodup
      rw [hwaiting]
      exact h.ports.2
  watches := h.watches
  blank := h.blank
  engine :=
    { held := fun hr => absurd (h.engine.held hr).1 hp
      frozen := h.engine.frozen
      done := h.engine.done
      link := Link.wellFormed_hand l _
      op := fun o ho => by
        cases ho
        exact ⟨hrange, hp, hphase, rfl, hbank, hbuffer⟩
      flight := fun _ => rfl
      snap := hn
      accrual := h.engine.accrual
      starting := fun hstart => absurd hstart hp }

/-- R147, R148, R150: within a snapshot in flight the next operation follows. -/
theorem Working.handInFlight (hf : InFlight s) {op : FlashOp} {phase : SnapPhase}
    (hphase : phase = if op.writes then .writing else .verifying) (hrange : op.inRange) (attempt : Attempt) (l : Link) :
    Working { s with
      snap := { s.snap with phase := phase, attempt := attempt }, link := l.hand ⟨op, s.snap.target, .snapshot⟩ } := by
  refine h.hand hf.served (n := { s.snap with phase := phase, attempt := attempt }) rfl hphase hrange hf.bank hf.buffer
    (h.engine.snap.inFlight ?_ attempt) l
  rw [hphase]
  split
  · exact .inl rfl
  · exact .inr rfl

/-- R145: the capture, granted with changes to capture. -/
theorem Working.captureJob : ∀ t, exec .captureJob s = .next t → Working t := by
  rintro _ ⟨⟩
  split
  · next hchoice =>
    have hpending := capturePending_of_choice hchoice
    refine h.hand (served_of_choice hchoice) (op := .erase 0) (n := { s.snap with
      captured := s.snap.changeCount, changeCount := 0, attempt := .first, target := nextTarget s.snap.newestBank
      buffer := some (captureImage s.table s.pool (nextGeneration s.snap.newestGen) s.snap.interval), phase := .writing })
      rfl rfl (Nat.zero_le 3) ?_ rfl ?_ s.link
    · cases s.snap.newestBank with
      | none => simp
      | some bank => cases bank <;> simp [nextTarget]
    · exact
        { again := fun ha => absurd (h.engine.snap.again ha).1 (by simp [hpending])
          requested := fun hw => nomatch hw
          changes := ⟨Nat.zero_le _, h.engine.snap.changes.1⟩
          generation := h.engine.snap.generation
          interval := h.engine.snap.interval
          autosave := h.engine.snap.autosave }
  all_goals exact h

/-- R147: an erase or a program completes and the next operation of the sequence follows. -/
theorem Working.writeCompleted (hf : InFlight s) (hwriting : s.snap.phase = .writing) {op : FlashOp}
    (hwrites : op.writes = true) (l : Link) : Working ((s.withLink l).writeCompleted op) := by
  cases op with
  | erase k =>
    unfold State.writeCompleted
    dsimp only
    split
    · next hk => exact h.handInFlight hf (op := .erase (k + 1)) hwriting hk s.snap.attempt l
    · exact h.handInFlight hf (op := .program 1) hwriting (by show 1 ≤ 32; decide) s.snap.attempt l
  | program n =>
    unfold State.writeCompleted
    dsimp only
    split
    · exact h.handInFlight hf (op := .read 1) rfl (by show 1 ≤ 32; decide) s.snap.attempt l
    · split
      · next hn => exact h.handInFlight hf (op := .program (n + 1)) hwriting hn s.snap.attempt l
      · exact h.handInFlight hf (op := .program 0) hwriting (Nat.zero_le _) s.snap.attempt l
  | read n => cases hwrites

/-! ### The end of a snapshot (R149, R150) -/

/-- R149, R150, R151: the part after a snapshot has ended, with the snapshot unit as the end has set it. -/
theorem Working.ended (hp : s.phase ≠ .starting) {l : Link} (hl : l.AtRest) {n : Snapshot}
    (hwaiting : n.waiting = s.snap.waiting) (hagain : n.again = s.snap.again) (hinterval : n.interval = s.snap.interval)
    (hn : n.InRange) (result : ResultCode) (body : List Byte) (ev : Option SystemEvent)
    {t : State} (ht : t = (State.tellEnd ev (State.answerSaves { s.withLink l with snap := n } result body)).endSnapshot) :
    Working t := by
  obtain ⟨hended, -⟩ := snapshotEnds h.ports hl hwaiting hagain hinterval result body ev (fun _ => rfl) ht
  have hsnap : t.snap = n.rebind.startAutosave.afterEnd := by
    rw [ht, State.endSnapshot_snap]
    cases ev <;> exact congrArg (fun m => m.startAutosave.afterEnd) (State.answerSaves_snap _ result body)
  have hlink : t.link = l := by
    rw [ht]
    cases ev <;> exact State.answerSaves_link _ result body
  obtain ⟨hphase, -⟩ := hended.phase
  have hrest := hended.rest
  refine ⟨hended.portsSound h.ports fun ps ha => ?_, fun p id hid => ?_, fun hstart => ?_, ?_⟩
  · cases ev with
    | none => rfl
    | some ev => exact if_neg (by rw [ha]; decide)
  · have hwatch : (t.ports.get p).notices.watch = (s.ports.get p).notices.watch := by
      rw [hended.ports p]
      cases ev with
      | none => rfl
      | some ev =>
        dsimp only
        split
        · exact NoticeUnit.append_watch ..
        · rfl
    rw [hrest]
    exact h.watches p id (hwatch ▸ hid)
  · rw [hrest] at hstart
    exact absurd hstart hp
  · have hnoflight : ¬ (t.snap.phase = .writing ∨ t.snap.phase = .verifying) := by
      rw [hphase]
      split <;> simp
    have hop : t.link.op = none := hlink ▸ hl.2.1
    exact
      { held := fun hr => by
          rw [hrest] at hr
          exact absurd (h.engine.held hr).1 hp
        frozen := by
          rw [hrest]
          exact h.engine.frozen
        done := by
          rw [hrest]
          exact h.engine.done
        link := hlink ▸ hl.wellFormed
        op := fun o ho => by
          rw [hop] at ho
          cases ho
        flight := fun hflight => absurd hflight hnoflight
        snap := hsnap ▸ hn.ended
        accrual := by
          rw [hrest]
          exact h.engine.accrual
        starting := fun hstart => by
          rw [hrest] at hstart
          exact absurd hstart hp }

/-- R149: the header read confirms the image. -/
theorem Working.snapshotSuccess (hf : InFlight s) {l : Link} (hl : l.AtRest) (image : Image) :
    Working ((s.withLink l).snapshotSuccess image) := by
  have hgen : headerGeneration image.header ≤ Config.max32 := Nat.le_of_lt_succ (fieldAt_lt _ 6 4)
  exact h.ended hf.served hl
    (n := { s.snap with newestBank := some s.snap.target, newestGen := headerGeneration image.header }) rfl rfl rfl
    { again := h.engine.snap.again
      requested := h.engine.snap.requested
      changes := h.engine.snap.changes
      generation := hgen
      interval := h.engine.snap.interval
      autosave := h.engine.snap.autosave } .ok _ none rfl

/-- R150: the first failure is retried, the second fails the snapshot. -/
theorem Working.attemptFailure (hf : InFlight s) {l : Link} (hl : l.AtRest) : Working (s.withLink l).attemptFailure := by
  unfold State.attemptFailure
  split
  · exact h.handInFlight hf (op := .erase 0) rfl (Nat.zero_le _) .second l
  · exact h.ended hf.served hl (n := { s.snap with changeCount := satAdd32 s.snap.changeCount s.snap.captured }) rfl rfl rfl
      ((s.snap.moves_addChanges _).inRange h.engine.snap) .snapshotFailed _ (some .snapshotFailed) rfl

/-- R148: a page read back is compared, and the next one is read. -/
theorem Working.verifyPage (hf : InFlight s) (hverifying : s.snap.phase = .verifying) {l : Link} (hl : l.AtRest) (n : Nat)
    (data : List Byte) : Working ((s.withLink l).verifyPage n data) := by
  unfold State.verifyPage
  split
  · exact h.attemptFailure hf hl
  · split
    · exact h.attemptFailure hf hl
    · split
      · split
        · exact h.snapshotSuccess hf hl _
        · exact h.attemptFailure hf hl
      · split
        · next hn => exact h.handInFlight hf (op := .read (n + 1)) hverifying hn s.snap.attempt l
        · exact h.handInFlight hf (op := .read 0) hverifying (Nat.zero_le _) s.snap.attempt l

/-! ### Start-up (R171 to R176) -/

/-- R171, R173: start-up hands its next read to the link. -/
theorem Working.readNext (hp : s.phase = .starting) (hr : s.pins.resetN = false) {u : Startup} (hu : u.step ≠ .done)
    {n : Nat} (hn : n ≤ 32) (bank : Bank) (l : Link) :
    Working { s with startup := u, link := l.hand ⟨.read n, bank, .startup⟩ } where
  ports := h.ports
  watches := h.watches
  blank := h.blank
  engine :=
    { held := fun hr' => absurd (hr.symm.trans hr') (by decide)
      frozen := fun hp' => absurd hp hp'
      done := ⟨fun hd => absurd hd hu, fun hp' => absurd hp hp'⟩
      link := Link.wellFormed_hand l _
      op := fun o ho => by
        cases ho
        exact ⟨hn, hp, hr, rfl, hu⟩
      flight := fun _ => rfl
      snap := h.engine.snap
      accrual := h.engine.accrual
      starting := h.engine.starting }

/-- R176: the end of start-up. -/
theorem Working.endStartup (hp : s.phase = .starting) (hr : s.pins.resetN = false) (u : Startup) {l : Link}
    (hl : l.AtRest) (table : List Entry) (pool : List EpochRecord) (proved : Option Bank) {generation interval : Nat}
    (hgen : generation ≤ Config.max32) (hinterval : interval ≤ 1440) :
    Working (State.endStartup { s.withLink l with startup := u } table pool proved generation interval) := by
  obtain ⟨-, hatt⟩ := h.blank hp
  obtain ⟨hreset, -⟩ := h.engine.starting hp
  have hphase : (if s.pins.pfwN then DevicePhase.frozen else .running) ≠ .starting := by split <;> simp
  have hsnap : (s.snap.startWith (startOutcome proved u.failedNewer) proved generation interval).InRange :=
    hreset ▸ Snapshot.inRange_startWith _ proved hgen hinterval
  refine ⟨h.ports, fun p id hid => ?_, fun hstart => absurd hstart hphase, ?_⟩
  · have hempty := ((h.ports.1 p).detached (hatt p)).1
    have hid : id ∈ (s.ports.get p).notices.watch := hid
    rw [hempty] at hid
    exact absurd hid List.not_mem_nil
  · exact
      { held := fun hr' => absurd (hr.symm.trans hr') (by decide)
        frozen := fun _ => ⟨by
          show (if s.pins.pfwN then DevicePhase.frozen else .running) = .frozen ↔ s.pins.pfwN = true
          split <;> simp_all, rfl⟩
        done := ⟨fun _ => hphase, fun _ => rfl⟩
        link := hl.wellFormed
        op := fun o ho => by
          have ho : l.op = some o := ho
          rw [hl.2.1] at ho
          cases ho
        flight := fun hf => by
          have hf : s.snap.phase = .writing ∨ s.snap.phase = .verifying := hf
          rw [hreset] at hf
          exact hf.elim nofun nofun
        snap := hsnap
        accrual := h.engine.accrual
        starting := fun hstart => absurd hstart hphase }

section
variable (hp : s.phase = .starting) (hr : s.pins.resetN = false)
include hp hr

/-- R173, R175: the next bank is tried, or the start is blank. -/
theorem Working.tryNext {u : Startup} (hu : u.step ≠ .done) {l : Link} (hl : l.AtRest) :
    Working (State.tryNext { s.withLink l with startup := u }) := by
  unfold State.tryNext
  split
  · exact h.endStartup hp hr u hl _ _ none (Nat.zero_le _) (by decide)
  · next bank _ _ =>
    exact h.readNext hp hr
      (u := { u with underTest := some bank, runningSum := 0, buffer := some ⟨(u.copyOf bank).getD [], []⟩ }) hu
      (by decide : 1 ≤ 32) bank l

theorem Working.bankFailed {u : Startup} (hu : u.step ≠ .done) {l : Link} (hl : l.AtRest) :
    Working (State.bankFailed { s.withLink l with startup := u }) :=
  h.tryNext hp hr (u := { u with
    failedNewer := u.failedNewer || decide (u.tryOrder.length = 2)
    tryOrder := u.tryOrder.tail, underTest := none, buffer := none, runningSum := 0 }) hu hl

theorem Working.headerADone {l : Link} (v : HeaderVerdict) (copy : Option (List Byte)) :
    Working ((s.withLink l).headerADone v copy) :=
  h.readNext hp hr (u := { s.startup with verdictA := some v, copyA := copy, step := .headerB }) (by simp) (Nat.zero_le 32) .b l

theorem Working.headerBDone {l : Link} (hl : l.AtRest) (v : HeaderVerdict) (copy : Option (List Byte)) :
    Working ((s.withLink l).headerBDone v copy) :=
  h.tryNext hp hr (u := { s.startup with
    verdictB := some v, copyB := copy, step := .body
    tryOrder := tryOrderOf (s.startup.verdictA.getD .implausible) v }) (by simp) hl

/-- R173, R174, R176: the bank under test is judged. -/
theorem Working.judgeBank {u : Startup} (hu : u.step ≠ .done) {l : Link} (hl : l.AtRest) (image : Image) (sum : Nat) :
    Working (State.judgeBank { s.withLink l with startup := u } image sum) := by
  unfold State.judgeBank
  split
  · split
    · next x hload =>
      have hgen : headerGeneration image.header ≤ Config.max32 := Nat.le_of_lt_succ (fieldAt_lt _ 6 4)
      exact h.endStartup hp hr u hl x.1 x.2 _ hgen (loadImage_cases hload).1
    · exact h.bankFailed hp hr hu hl
  · exact h.bankFailed hp hr hu hl

theorem Working.startupPage (hu : s.startup.step ≠ .done) {l : Link} (hl : l.AtRest) (n : Nat) (data : List Byte) :
    Working ((s.withLink l).startupPage n data) := by
  unfold State.startupPage
  split
  · exact h.headerADone hp hr _ _
  · exact h.headerBDone hp hr hl _ _
  · unfold State.bodyPageRead
    dsimp only
    split
    · next hn =>
      exact h.readNext hp hr (u := { s.startup with
        buffer := some { s.startup.buffer.getD ⟨[], []⟩ with body := (s.startup.buffer.getD ⟨[], []⟩).body ++ data }
        runningSum := (s.startup.runningSum + wordSum data) % Config.two32 }) hu hn _ l
    · exact h.judgeBank hp hr (u := { s.startup with
        buffer := some { s.startup.buffer.getD ⟨[], []⟩ with body := (s.startup.buffer.getD ⟨[], []⟩).body ++ data }
        runningSum := (s.startup.runningSum + wordSum data) % Config.two32 }) hu hl _ _
  · next hdone => exact absurd hdone hu

theorem Working.startupFailure (hu : s.startup.step ≠ .done) {l : Link} (hl : l.AtRest) :
    Working (s.withLink l).startupFailure := by
  unfold State.startupFailure
  split
  · exact h.headerADone hp hr _ _
  · exact h.headerBDone hp hr hl _ _
  · exact h.bankFailed hp hr (u := s.startup) hu hl
  · next hdone => exact absurd hdone hu

end

/-! ### The ends of an operation (R161, R167) -/

section
variable {o : LinkOp} (hop : s.link.op = some o)
include hop

/-- R161: an operation of the start-up logic is in hand while start-up is under way alone. -/
theorem Working.startupOp (hc : o.client = .startup) :
    s.phase = .starting ∧ s.pins.resetN = false ∧ o.op.writes = false ∧ s.startup.step ≠ .done := by
  obtain ⟨-, hclient⟩ := h.engine.op o hop
  rwa [hc] at hclient

/-- R167: the operation in hand fails. -/
theorem Working.opFailed : Working (s.opFailed o) := by
  unfold State.opFailed
  rw [State.linkIdle_eq]
  split
  · next hc => exact h.attemptFailure ((h.engine.op o hop).inFlight hc).1 ⟨rfl, rfl, rfl⟩
  · next hc =>
    obtain ⟨hp, hr, -, hu⟩ := h.startupOp hop hc
    exact h.startupFailure hp hr hu ⟨rfl, rfl, rfl⟩

/-- R163, R164: the erase or program in hand completes. -/
theorem Working.writeDone (hwrites : o.op.writes = true) : Working (s.writeDone o) := by
  have hc : o.client = .snapshot := by
    cases hc : o.client with
    | snapshot => rfl
    | startup =>
      obtain ⟨-, -, hread, -⟩ := h.startupOp hop hc
      exact absurd (hwrites.symm.trans hread) (by decide)
  obtain ⟨hf, hphase⟩ := (h.engine.op o hop).inFlight hc
  rw [hwrites] at hphase
  unfold State.writeDone
  rw [State.linkIdle_eq]
  exact h.writeCompleted hf hphase hwrites _

/-- R165: the page read in hand completes. -/
theorem Working.readDone (hread : o.op.writes = false) (n : Nat) (data : List Byte) : Working (s.readDone o n data) := by
  unfold State.readDone
  rw [State.linkIdle_eq]
  split
  · next hc =>
    obtain ⟨hf, hphase⟩ := (h.engine.op o hop).inFlight hc
    rw [hread] at hphase
    exact h.verifyPage hf hphase ⟨rfl, rfl, rfl⟩ n data
  · next hc =>
    obtain ⟨hp, hr, -, hu⟩ := h.startupOp hop hc
    exact h.startupPage hp hr hu ⟨rfl, rfl, rfl⟩ n data

end

end

end Sys2Proof.Machine
end

section
/-!
SUPPORT. Every command and every REFCLK period keep the part working, and with it sound.
-/
namespace Sys2Proof.Machine

/-! ### The transactions of the link (R159, R162 to R166) -/

section
variable {s : State} (h : Working s)
include h

theorem Working.sent (bytes : List Byte) : Working (s.sent bytes) :=
  h.withLink (h.engine.link.sent bytes s.link.writeEnabled) rfl

theorem Working.statusRead (status : Byte) : ∀ t, exec (.statusRead status) s = .next t → Working t := by
  rintro _ ⟨⟩
  dsimp only
  split
  · next o _ hop =>
    split
    · exact h.sent [cmdStatus]
    · exact h.withLink (Link.WellFormed.command hop [cmdStatus]) rfl
  · next o hphase hop =>
    split
    · exact h.sent [cmdStatus]
    · exact (h.sent [cmdStatus]).writeDone hop (h.engine.link.busy o hop hphase)
  all_goals exact h

theorem Working.writeEnable : ∀ t, exec .writeEnable s = .next t → Working t := by
  rintro _ ⟨⟩
  dsimp only
  split
  case h_3 | h_4 | h_5 | h_6 | h_7 => exact h
  all_goals
    split
    · exact h
    · exact h.withLink (h.engine.link.sent [cmdWriteEnable] true) rfl

theorem Working.sectorErase : ∀ t, exec .sectorEraseTransaction s = .next t → Working t := by
  rintro _ ⟨⟩
  split
  · next hop =>
    split
    · exact h.withLink (Link.WellFormed.startBusyWait hop rfl (.inl rfl) _) rfl
    · exact h
  all_goals exact h

theorem Working.pageProgram : ∀ t, exec .pageProgramTransaction s = .next t → Working t := by
  rintro _ ⟨⟩
  split
  · next hop =>
    split
    · exact h.withLink (Link.WellFormed.startBusyWait hop rfl (.inr rfl) _) rfl
    · exact h
  all_goals exact h

theorem Working.pageRead (data : List Byte) : ∀ t, exec (.pageRead data) s = .next t → Working t := by
  rintro _ ⟨⟩
  split
  · split
    · next n bank c _ hop => exact (h.sent (LinkOp.commandBytes ⟨.read n, bank, c⟩)).readDone hop rfl n data
    all_goals exact h
  · exact h

theorem Working.readyWaitTimeout : ∀ t, exec .readyWaitTimeout s = .next t → Working t := by
  rintro _ ⟨⟩
  split
  · next hop => exact h.opFailed hop
  all_goals exact h

theorem Working.busyWaitTimeout : ∀ t, exec .busyWaitTimeout s = .next t → Working t := by
  rintro _ ⟨⟩
  split
  · next hop => exact h.opFailed hop
  all_goals exact h

/-! ### Device reset (R169) -/

/-- R169: start-up begins with the header of bank A. -/
theorem Working.resetDeassert : ∀ t, exec .resetDeassert s = .next t → Working t := by
  rintro _ ⟨⟩
  split
  · next hr =>
    obtain ⟨hp, hnone⟩ := h.engine.held hr
    obtain ⟨hreset, haccrual⟩ := h.engine.starting hp
    have hreleased : Working { s with
        pins := { s.pins with resetN := false }, accrual := { s.accrual with secondTimer := 0 } } :=
      { ports := h.ports
        watches := h.watches
        blank := h.blank
        engine :=
          { held := fun hr' => nomatch hr'
            frozen := h.engine.frozen
            done := h.engine.done
            link := h.engine.link
            op := fun o ho => absurd (hnone.symm.trans ho) (by simp)
            flight := h.engine.flight
            snap := h.engine.snap
            accrual := h.engine.accrual.restart
            starting := fun _ => ⟨hreset, by
              show ({ s.accrual with secondTimer := 0 } : Accrual) = _
              rw [haccrual]⟩ } }
    have hstep : s.startup.step ≠ .done := fun hd => h.engine.done.1 hd hp
    exact hreleased.readNext hp rfl (u := s.startup) hstep (Nat.zero_le 32) .a s.link
  · exact h

end

/-- R138, R160: the values of a device reset. -/
theorem Snapshot.inRange_reset : Snapshot.reset.InRange where
  again := fun ha => nomatch ha
  requested := fun hp => nomatch hp
  changes := ⟨Nat.zero_le _, Nat.zero_le _⟩
  generation := Nat.zero_le _
  interval := by decide
  autosave := fun _ hleft => nomatch hleft

/-- R169: the part in device reset, whatever the levels of its pins and the commands that wait. -/
theorem working_reset (pins : Pins) (freeIndex : Nat) (pending : List Instr) :
    Working { State.reset with pins := pins, freeIndex := freeIndex, pending := pending } := by
  have hport : ∀ p, (PerPort.get ⟨.reset, .reset, .reset, .reset⟩ p : PortState) = .reset := fun p => by cases p <;> rfl
  refine ⟨⟨fun p => ?_, List.nodup_nil⟩, fun p id hid => ?_, fun _ => ⟨rfl, fun p => ?_⟩, ?_⟩
  · exact (hport p).symm ▸ portSound_reset fun _ hw => nomatch hw
  · exact absurd ((hport p) ▸ hid) List.not_mem_nil
  · exact congrArg PortState.attached (hport p)
  · exact
      { held := fun _ => ⟨rfl, rfl⟩
        frozen := fun hp => absurd rfl hp
        done := ⟨nofun, fun hp => absurd rfl hp⟩
        link := Link.AtRest.wellFormed ⟨rfl, rfl, rfl⟩
        op := fun _ ho => nomatch ho
        flight := fun hf => hf.elim nofun nofun
        snap := Snapshot.inRange_reset
        accrual := ⟨⟨Nat.zero_le _, Nat.zero_le _⟩, ⟨Nat.zero_le _, Nat.zero_le _⟩, Nat.zero_le _⟩
        starting := fun _ => ⟨rfl, rfl⟩ }

/-! ### Every command, and one REFCLK period -/

theorem exec_working (c : Instr) {s : State} (h : Working s) : ∀ t, exec c s = .next t → Working t := by
  cases c with
  | attach p => exact h.request p .attach
  | detach p => exact h.request p .detach
  | define p => exact h.request p .define
  | amend p => exact h.request p .amend
  | retire p => exact h.request p .retire
  | renew p => exact h.request p .renew
  | describe p => exact h.request p .describe
  | list p => exact h.request p .list
  | clear p => exact h.request p .clear
  | override p => exact h.request p .override
  | report p => exact h.request p .report
  | watch p => exact h.request p .watch
  | unwatch p => exact h.request p .unwatch
  | fetch p => exact h.request p .fetch
  | ack p => exact h.request p .ack
  | claim p => exact h.request p .claim
  | release p => exact h.request p .release
  | save p => exact h.request p .save
  | settings p => exact h.request p .settings
  | unknownRequestCode p => exact h.unknownRequestCode p
  | captureJob => exact h.captureJob
  | accrualJob => exact h.accrualJob
  | secondTick run => exact h.secondTick run
  | leaseUnitComplete => exact h.leaseUnitComplete
  | leaseExpiry => exact h.leaseExpiry
  | autosaveExpiry => exact h.autosaveExpiry
  | pfwAssert => exact h.pfwAssert
  | pfwDeassert => exact h.pfwDeassert
  | portReset p => exact h.prstAssert p
  | prstDeassert p => exact h.prstDeassert p
  | deviceReset =>
    rintro _ ⟨⟩
    exact working_reset { s.pins with resetN := true } s.freeIndex s.pending
  | resetDeassert => exact h.resetDeassert
  | frameArrival p bytes => exact h.frameArrival p bytes
  | readSelect p => exact h.readSelect p
  | readEnd p clocked => exact h.readEnd p clocked
  | invalidSelectEnd p => exact h.invalidSelectEnd p
  | statusRead status => exact h.statusRead status
  | writeEnable => exact h.writeEnable
  | sectorEraseTransaction => exact h.sectorErase
  | pageProgramTransaction => exact h.pageProgram
  | pageRead data => exact h.pageRead data
  | readyWaitTimeout => exact h.readyWaitTimeout
  | busyWaitTimeout => exact h.busyWaitTimeout

section
variable {s : State} (h : Working s)
include h

/-- The queue and the index of the free values are no part of it. -/
theorem Working.queue (pending : List Instr) (freeIndex : Nat) :
    Working { s with pending := pending, freeIndex := freeIndex } where
  ports := h.ports
  watches := h.watches
  blank := h.blank
  engine :=
    { held := h.engine.held
      frozen := h.engine.frozen
      done := h.engine.done
      link := h.engine.link
      op := h.engine.op
      flight := h.engine.flight
      snap := h.engine.snap
      accrual := h.engine.accrual
      starting := h.engine.starting }

/-- R162, R166: with no event due the timeout timer stands below its limit. -/
theorem Working.timer_below (hdue : s.dueEvents = []) : ∀ t, s.link.timer = some t → t.count < t.limit := by
  intro t ht
  have hwait := h.engine.link.timer.1 (ht ▸ rfl)
  by_contra hge
  have hop : s.link.op ≠ none := fun hnone => by
    rw [h.engine.link.idle.1 hnone] at hwait
    exact hwait.elim nofun nofun
  have hevent : ∃ c, c ∈ s.dueEvents := by
    rcases hwait with hphase | hphase
    · exact ⟨_, State.mem_dueEvents_iff.2 (.inr (.inr (.inr ⟨.inl ⟨rfl, hphase⟩, hop, t, ht, Nat.not_lt.1 hge⟩)))⟩
    · exact ⟨_, State.mem_dueEvents_iff.2 (.inr (.inr (.inr ⟨.inr ⟨rfl, hphase⟩, hop, t, ht, Nat.not_lt.1 hge⟩)))⟩
  obtain ⟨c, hc⟩ := hevent
  exact absurd (hdue ▸ hc) List.not_mem_nil

/-- R76, R143, R162: every running timer counts one period. -/
theorem Working.clock (hdue : s.dueEvents = []) : Working s.clock := by
  have hsecond : s.accrual.secondTimer < 32768 := by
    by_contra hge
    exact absurd (hdue ▸ State.mem_dueEvents_iff.2 (.inl ⟨rfl, Nat.not_lt.1 hge⟩)) List.not_mem_nil
  have hlink := h.withLink (h.engine.link.clock (h.timer_below hdue)) rfl
  have hcalm : Calm (s.withLink s.link.clock) s.clock :=
    calm_of rfl (fun ha => ⟨ha.owed, ha.pending, hsecond⟩) s.snap.moves_clock rfl (fun _ => .refl _) (.refl _)
  refine hlink.calm hcalm fun hp => ⟨fun ht => ht, fun _ => rfl, ?_, rfl⟩
  show s.snap.clock = s.snap
  rw [(h.engine.starting hp).1]
  rfl

theorem Working.refclk : Working s.refclk := by
  cases hr : s.pins.resetN with
  | true => rwa [State.refclk_held hr]
  | false =>
    by_cases hdue : s.dueEvents = []
    · rw [State.refclk_period hr hdue]
      exact h.clock hdue
    · obtain ⟨c, -, heq⟩ := State.refclk_event hr hdue
      rw [heq]
      exact h.queue _ _

end

theorem step_working {s t : State} (hs : Working s) (h : step s = .next t) : Working t :=
  step_keeps (Inv := Working) (fun _ hs => hs.refclk) (fun s q hs => hs.queue q s.freeIndex)
    (fun c _ t hs he => exec_working c hs t he) hs h

/-! ### The obligations -/

/-- Settles O55: `working_reset`, with nothing in the table and no notice anywhere. -/
theorem resetIsSound : Obligations.ResetIsSound := by
  refine (working_reset State.reset.pins 0 []).sound ⟨rfl, rfl⟩ ⟨rfl, fun _ he => nomatch he⟩
    (stocked_empty rfl rfl) fun p => ?_
  cases p <;> exact NoticeUnit.empty_sound

/-- Settles O60: lines and lease by `step_kept`, table and pool by `step_stocked`, the queues by `everyStepKeepsTheQueues`,
everything else by `step_working`. -/
theorem everyStepKeepsSoundness : Obligations.EveryStepKeepsSoundness := fun s t hs h =>
  (step_working hs.working h).sound ((step_kept h).lines hs.lines) ((step_kept h).lease hs.lease)
    (step_stocked ⟨hs.table, hs.entries, hs.pool⟩ h) (everyStepKeepsTheQueues s t hs.notices h)

end Sys2Proof.Machine
end
